-- ==== Sys2Proof/Word.lean ====
section
/-! DEFINITION. The two widths of GCRC16: bytes and 16-bit words (00_scope.md R10). -/

namespace Sys2Proof

/-- A data byte (R10: "every data operand is one 8-bit byte"). -/
abbrev Byte := BitVec 8

/-- A command word, a response value or a 16-bit register (R10). -/
abbrev Word := BitVec 16

end Sys2Proof
end

