-- ==== Sys2Proof/Syntax.lean ====
section
/-! DEFINITION. The thirteen commands of GCRC16, one constructor per row of spec/opcode_table.json (30_encoding.md R64),
and the raw fields of a command word (R62). -/

namespace Sys2Proof

/-- A command (R64). The only operand is the byte of CRC.BYTE and STS.BYTE (R63). -/
inductive Instr where
  /-- NOP (42_control.md R150). -/
  | nop
  /-- CRC.INIT (40_crc.md R110). -/
  | crcInit
  /-- CRC.BYTE d (40_crc.md R111). -/
  | crcByte (d : Byte)
  /-- CRC.READ (40_crc.md R112). -/
  | crcRead
  /-- CRC.EMITHI (40_crc.md R113). -/
  | crcEmitHi
  /-- CRC.EMITLO (40_crc.md R114). -/
  | crcEmitLo
  /-- STS.CLEAR (41_status.md R131). -/
  | stsClear
  /-- STS.BYTE d (41_status.md R132). -/
  | stsByte (d : Byte)
  /-- STS.READ (41_status.md R133). -/
  | stsRead
  /-- STS.OUTCOME (41_status.md R134). -/
  | stsOutcome
  /-- STS.FILL (41_status.md R135). -/
  | stsFill
  /-- ERR.READ (42_control.md R151). -/
  | errRead
  /-- ERR.CLEAR (42_control.md R152). -/
  | errClear
  deriving DecidableEq, Repr

/-- The thirteen defined opcodes (R64). -/
inductive Opcode where
  | nop | crcInit | crcByte | crcRead | crcEmitHi | crcEmitLo
  | stsClear | stsByte | stsRead | stsOutcome | stsFill | errRead | errClear
  deriving DecidableEq, Repr

/-- The three fields of a command word, legal or not (R62). -/
structure RawCommand where
  /-- bits 15:12 -/
  op : BitVec 4
  /-- bits 11:8, reserved -/
  rsv : BitVec 4
  /-- bits 7:0 -/
  data : Byte
  deriving DecidableEq, Repr

end Sys2Proof
end

