-- ==== Sys2Proof/WellFormed.lean ====
section
/-! DEFINITION. Which raw command words are well formed: the three checks of 30_encoding.md R65, R66 and R67, written from
those rules apart from the decoder. A term of `Instr` has no ill-formed value: its one operand is a byte by its type, so the
checks are on the raw fields. -/

namespace Sys2Proof.RawCommand

/-- R65: the opcodes 0x6, 0x7 and 0xD are reserved. -/
def opDefined (r : RawCommand) : Bool :=
  r.op != 0x6 && r.op != 0x7 && r.op != 0xD

/-- R66: the reserved field must be zero. -/
def rsvZero (r : RawCommand) : Bool :=
  r.rsv == 0

/-- R67: `data` must be zero unless the command takes a byte (opcodes 0x2 and 0x9). -/
def dataAllowed (r : RawCommand) : Bool :=
  r.op == 0x2 || r.op == 0x9 || r.data == 0

/-- A word that is one of the thirteen commands (R64 to R67). -/
def wellFormed (r : RawCommand) : Bool :=
  r.opDefined && r.rsvZero && r.dataAllowed

end Sys2Proof.RawCommand
end

