-- ==== Sys2Proof/Decode.lean ====
section
/-! DEFINITION. Decoding a command word (30_encoding.md R62 to R70), total on all 65536 words, and the encoder. -/

namespace Sys2Proof

/-- Why a word is no command (60_exceptions.md R171). -/
inductive DecodeFault where
  /-- `op` is 0x6, 0x7 or 0xD (R65), cause 0x01. -/
  | illegalCommand
  /-- `rsv` is not zero (R66), or `data` is not zero on a command that takes no byte (R67), cause 0x02. -/
  | reservedField
  deriving DecidableEq, Repr

/-- The fields of a command word (R62). -/
def RawCommand.ofWord (w : Word) : RawCommand :=
  { op := w.extractLsb' 12 4, rsv := w.extractLsb' 8 4, data := w.extractLsb' 0 8 }

/-- The word with these fields (R62). -/
def RawCommand.toWord (r : RawCommand) : Word :=
  r.op ++ r.rsv ++ r.data

/-- The opcode map (R64), from the four opcode bits. -/
def Opcode.ofBits (op : BitVec 4) : Option Opcode :=
  match op.toNat with
  | 0x0 => some .nop
  | 0x1 => some .crcInit
  | 0x2 => some .crcByte
  | 0x3 => some .crcRead
  | 0x4 => some .crcEmitHi
  | 0x5 => some .crcEmitLo
  | 0x8 => some .stsClear
  | 0x9 => some .stsByte
  | 0xA => some .stsRead
  | 0xB => some .stsOutcome
  | 0xC => some .stsFill
  | 0xE => some .errRead
  | 0xF => some .errClear
  | _ => none

/-- The opcode map (R64), to the four opcode bits. -/
def Opcode.toBits : Opcode → BitVec 4
  | .nop => 0x0
  | .crcInit => 0x1
  | .crcByte => 0x2
  | .crcRead => 0x3
  | .crcEmitHi => 0x4
  | .crcEmitLo => 0x5
  | .stsClear => 0x8
  | .stsByte => 0x9
  | .stsRead => 0xA
  | .stsOutcome => 0xB
  | .stsFill => 0xC
  | .errRead => 0xE
  | .errClear => 0xF

/-- Whether the command takes a byte in `data` (R62, R67). -/
def Opcode.takesByte : Opcode → Bool
  | .crcByte => true
  | .stsByte => true
  | .nop | .crcInit | .crcRead | .crcEmitHi | .crcEmitLo | .stsClear | .stsRead | .stsOutcome
  | .stsFill | .errRead | .errClear => false

/-- The command of an opcode and its `data` field. -/
def Opcode.command : Opcode → Byte → Instr
  | .nop, _ => .nop
  | .crcInit, _ => .crcInit
  | .crcByte, d => .crcByte d
  | .crcRead, _ => .crcRead
  | .crcEmitHi, _ => .crcEmitHi
  | .crcEmitLo, _ => .crcEmitLo
  | .stsClear, _ => .stsClear
  | .stsByte, d => .stsByte d
  | .stsRead, _ => .stsRead
  | .stsOutcome, _ => .stsOutcome
  | .stsFill, _ => .stsFill
  | .errRead, _ => .errRead
  | .errClear, _ => .errClear

/-- The mnemonic of R64. -/
def Opcode.mnemonic : Opcode → String
  | .nop => "NOP"
  | .crcInit => "CRC.INIT"
  | .crcByte => "CRC.BYTE"
  | .crcRead => "CRC.READ"
  | .crcEmitHi => "CRC.EMITHI"
  | .crcEmitLo => "CRC.EMITLO"
  | .stsClear => "STS.CLEAR"
  | .stsByte => "STS.BYTE"
  | .stsRead => "STS.READ"
  | .stsOutcome => "STS.OUTCOME"
  | .stsFill => "STS.FILL"
  | .errRead => "ERR.READ"
  | .errClear => "ERR.CLEAR"

/-- The rows of R64 in the table's order. -/
def Opcode.all : List Opcode :=
  [.nop, .crcInit, .crcByte, .crcRead, .crcEmitHi, .crcEmitLo,
   .stsClear, .stsByte, .stsRead, .stsOutcome, .stsFill, .errRead, .errClear]

/-- Decoding the raw fields, the checks in the order of R70. -/
def RawCommand.decode (r : RawCommand) : Except DecodeFault Instr :=
  match Opcode.ofBits r.op with
  | none => .error .illegalCommand
  | some o =>
    if r.rsv ≠ 0 then .error .reservedField
    else if o.takesByte = false ∧ r.data ≠ 0 then .error .reservedField
    else .ok (o.command r.data)

/-- Decode (R70): the command a word stands for, or why it is none. -/
def decode (w : Word) : Except DecodeFault Instr :=
  (RawCommand.ofWord w).decode

/-- The opcode of a command. -/
def Instr.opcode : Instr → Opcode
  | .nop => .nop
  | .crcInit => .crcInit
  | .crcByte _ => .crcByte
  | .crcRead => .crcRead
  | .crcEmitHi => .crcEmitHi
  | .crcEmitLo => .crcEmitLo
  | .stsClear => .stsClear
  | .stsByte _ => .stsByte
  | .stsRead => .stsRead
  | .stsOutcome => .stsOutcome
  | .stsFill => .stsFill
  | .errRead => .errRead
  | .errClear => .errClear

/-- The `data` field of a command: its byte, or 0x00 (R62). -/
def Instr.data : Instr → Byte
  | .crcByte d => d
  | .stsByte d => d
  | .nop | .crcInit | .crcRead | .crcEmitHi | .crcEmitLo | .stsClear | .stsRead | .stsOutcome
  | .stsFill | .errRead | .errClear => 0

/-- The fields of a command's word: its opcode, a zero reserved field, its data (R62). -/
def Instr.fields (i : Instr) : RawCommand :=
  { op := i.opcode.toBits, rsv := 0, data := i.data }

/-- The word of a command (R62, R64). -/
def encode (i : Instr) : Word :=
  i.fields.toWord

/-- A row of the opcode table: the bits that are fixed, and their values (R64). -/
structure OpcodeRow where
  opcode : Opcode
  matchBits : Word
  mask : Word
  deriving DecidableEq, Repr

/-- Whether a word fits a row of the table. -/
def OpcodeRow.fits (r : OpcodeRow) (w : Word) : Bool :=
  w &&& r.mask == r.matchBits

/-- The match and mask columns of R64. -/
def opcodeTable : List OpcodeRow :=
  [⟨.nop, 0x0000, 0xFFFF⟩, ⟨.crcInit, 0x1000, 0xFFFF⟩, ⟨.crcByte, 0x2000, 0xFF00⟩,
   ⟨.crcRead, 0x3000, 0xFFFF⟩, ⟨.crcEmitHi, 0x4000, 0xFFFF⟩, ⟨.crcEmitLo, 0x5000, 0xFFFF⟩,
   ⟨.stsClear, 0x8000, 0xFFFF⟩, ⟨.stsByte, 0x9000, 0xFF00⟩, ⟨.stsRead, 0xA000, 0xFFFF⟩,
   ⟨.stsOutcome, 0xB000, 0xFFFF⟩, ⟨.stsFill, 0xC000, 0xFFFF⟩, ⟨.errRead, 0xE000, 0xFFFF⟩,
   ⟨.errClear, 0xF000, 0xFFFF⟩]

/-- The word whose low `nbits` bits are those of `w` and whose other bits are zero. A command is one 16-bit word that crosses
the port in parallel (R69, 20_memory.md R46), so the table's bit numbers are the word's own. -/
def tableWord (nbits w : Nat) : Word :=
  BitVec.ofNat 16 (w % 2 ^ nbits)

/-- The instruction the decoder reads from the word numbered as spec/opcode_table.json numbers it. -/
def decodeTableWord (nbits w : Nat) : Option Instr :=
  match decode (tableWord nbits w) with
  | .ok i => some i
  | .error _ => none

end Sys2Proof
end

