-- ==== Sys2Proof/Config.lean ====
section
/-! DEFINITION. The named parameters of GCRC16 (00_scope.md R8, R9; 93_implementation_defined.md I1, I2, I11, I12).
CMD_LATENCY has no constant here: whether it has elapsed is said at each edge by `Edge.rspDue` (log entry 2). -/

namespace Sys2Proof.Config

/-- CRC_POLY, the x^16 term implicit (R8). -/
def crcPoly : Word := 0x1021

/-- CRC_INIT (R8). -/
def crcInit : Word := 0x0000

/-- CRC_XOROUT (R8, 92_eei_decisions.md D7). -/
def crcXorOut : Word := 0x0000

/-- CRC_IMPL: how the CRC unit computes a byte update; no architectural effect (R9, 40_crc.md R103). -/
inductive CrcImpl where
  | bitserial
  | table
  deriving DecidableEq, Repr

/-- The two host operations whose responses the status parser reads (30_encoding.md R81, R89). -/
inductive HostOp where
  | setMode
  | redraw
  deriving DecidableEq, Repr

/-- RSP_LEN: how many response bytes the host feeds (R9, 30_encoding.md R89). The block does not depend on it. -/
def rspLen : HostOp → Nat
  | .setMode => 32
  | .redraw => 16

end Sys2Proof.Config
end

