-- ==== Sys2Proof/Machine/State.lean ====
section
/-! DEFINITION. The state of GCRC16 as plain data (10_state.md), and its value after reset (R30). -/

namespace Sys2Proof.Machine

/-- Why the machine could stop. No constructor: a fault of GCRC16 is recorded in `err` and answered with `rsp_fault = 1`, and
the engine goes on (60_exceptions.md R173, R175), so nothing raises one of these. -/
inductive Fault where
  deriving DecidableEq, Repr

/-- What has no meaning in the model. -/
inductive Refusal where
  /-- An arm of `exec` without a meaning yet; none is left. Safe: nothing is claimed of such a command. -/
  | notModelled (mnemonic : String)
  /-- Raised by `step` at an edge that offers a command before the first reset (70_reset_and_hazards.md R206,
  93_implementation_defined.md I5). Safe: the spec refuses it too. -/
  | commandBeforeReset
  /-- Raised by `step` at an edge where the host changes a word it must hold (30_encoding.md R60,
  93_implementation_defined.md I6). Safe: the spec refuses it too. -/
  | brokenHandshake
  deriving DecidableEq, Repr

/-- The causes `err.CAUSE` records (60_exceptions.md R171). -/
inductive Cause where
  /-- 0x01: a reserved opcode. -/
  | illegalCommand
  /-- 0x02: `rsv`, or `data` on a command that takes no byte. -/
  | reservedField
  /-- 0x03: STS.READ or STS.OUTCOME at `sts_fill < 2`. -/
  | shortResponse
  deriving DecidableEq, Repr

/-- `sts_fill`: 0, 1 or 2 (10_state.md R23: "the model's state type must exclude" 3). -/
inductive Fill where
  | zero
  | one
  | two
  deriving DecidableEq, Repr

/-- The three outcomes of a response (41_status.md R130). -/
inductive StatusOutcome where
  | success
  | invalidCommand
  | checksumMismatch
  deriving DecidableEq, Repr

/-- One response: `rsp_value` and `rsp_fault` (30_encoding.md R71). -/
structure Response where
  value : Word
  fault : Bool
  deriving DecidableEq, Repr

/-- The state of the command port (30_encoding.md R60, 10_state.md R29). -/
inductive Port where
  /-- Before the first reset (10_state.md R32): every command is refused. -/
  | unreset
  /-- No command is in flight. -/
  | idle
  /-- A command is in flight; its response is not offered yet. -/
  | executing (r : Response)
  /-- A command is in flight; its response has been offered and not yet taken. -/
  | offering (r : Response)
  deriving DecidableEq, Repr

/-- The input pins sampled at one rising edge of `clk` (30_encoding.md R61), and whether the response of the command in flight
is due (70_reset_and_hazards.md R220, CMD_LATENCY; log entry 2). -/
structure Edge where
  rstN : Bool
  cmdValid : Bool
  cmdWord : Word
  rspReady : Bool
  rspDue : Bool
  deriving DecidableEq, Repr

/-- What one rising edge does to the engine. -/
inductive EdgeKind where
  /-- `rst_n = 0`: every element takes its reset value (70_reset_and_hazards.md R200). -/
  | reset
  /-- The run has no meaning from here. -/
  | refuse (why : Refusal)
  /-- The word is accepted (30_encoding.md R60). -/
  | accept (w : Word)
  /-- No command is accepted; a response may be offered or delivered. -/
  | quiet
  deriving DecidableEq, Repr

/-- Everything GCRC16 holds. The first four fields are the architectural state (10_state.md R20). -/
structure State where
  /-- `crc`, the CRC accumulator (R21). -/
  crc : Word
  /-- `sts_word` (R22). -/
  stsWord : Word
  /-- `sts_fill` (R23). -/
  stsFill : Fill
  /-- `err`: CAUSE in bits 7:0, OVF in bit 8, bits 15:9 hard-wired 0 (R24). -/
  err : Word
  /-- The command in flight and its response, if any (R29). -/
  port : Port
  /-- The word the host was offering at the last edge without being accepted (30_encoding.md R60). -/
  held : Option Word
  /-- The rising edges still to come, first one first (log entry 1). -/
  edges : List Edge
  /-- The responses delivered since reset, newest first (00_scope.md R18, log entry 4). -/
  delivered : List Response
  deriving DecidableEq, Repr

/-- The machine right after reset (10_state.md R30): no command in flight, nothing scheduled, nothing delivered. -/
def State.reset : State :=
  { crc := 0x0000, stsWord := 0x0000, stsFill := .zero, err := 0x0000,
    port := .idle, held := none, edges := [], delivered := [] }

end Sys2Proof.Machine
end

