-- ==== Sys2Proof/Machine/Operands.lean ====
section
/-! DEFINITION. The operand and result forms of GCRC16: widening, byte selection and the byte orders of 00_scope.md R12 and
R13. The only operand of a command is the byte `data`, used as it is (30_encoding.md R63). -/

namespace Sys2Proof.Machine

/-- `zext16(b)` (R12). -/
def zext16 (b : Byte) : Word :=
  b.setWidth 16

/-- `v[15:8]`. -/
def hiByte (v : Word) : Byte :=
  v.extractLsb' 8 8

/-- `v[7:0]`. -/
def loByte (v : Word) : Byte :=
  v.extractLsb' 0 8

/-- `{h, l}`: the word with high byte `h` and low byte `l` (R12). -/
def joinBytes (h l : Byte) : Word :=
  h ++ l

/-- `BE16(v)`: high byte first (R13). -/
def be16 (v : Word) : List Byte :=
  [hiByte v, loByte v]

/-- `LE16(v)`: low byte first (R13). -/
def le16 (v : Word) : List Byte :=
  [loByte v, hiByte v]

/-- `sts_fill` as a number (10_state.md R23). -/
def fillCount : Fill → Nat
  | .zero => 0
  | .one => 1
  | .two => 2

/-- `zext16(sts_fill)` (41_status.md R135). -/
def fillWord (f : Fill) : Word :=
  BitVec.ofNat 16 (fillCount f)

end Sys2Proof.Machine
end

