-- ==== Sys2Proof/Machine/Flags.lean ====
section
/-! DEFINITION. The fields of `err` (10_state.md R24) and how a fault is recorded in them (60_exceptions.md R174). GCRC16 has
no condition codes: its only flags are CAUSE, OVF and the `rsp_fault` of a response (R27). -/

namespace Sys2Proof.Machine

/-- The cause code recorded in CAUSE (60_exceptions.md R171). -/
def causeCode : Cause → Byte
  | .illegalCommand => 0x01
  | .reservedField => 0x02
  | .shortResponse => 0x03

/-- The cause a word that is no command raises (R171). -/
def decodeCause : DecodeFault → Cause
  | .illegalCommand => .illegalCommand
  | .reservedField => .reservedField

/-- The implemented bits of `err`: bits 15:9 are hard-wired 0 (10_state.md R24). -/
def errMask : Word := 0x01FF

/-- CAUSE, `err[7:0]` (R24). -/
def errCause (e : Word) : Byte :=
  loByte e

/-- OVF, `err[8]` (R24). -/
def errOvf (e : Word) : Bool :=
  e.getLsbD 8

/-- `err[7:0] <- c`. -/
def setErrCause (c : Byte) (e : Word) : Word :=
  joinBytes (hiByte e) c

/-- `err[8] <- 1`. -/
def setErrOvf (e : Word) : Word :=
  e ||| 0x0100

/-- RecordFault (60_exceptions.md R174): the first cause is kept, a later one sets OVF. -/
def recordFault (c : Cause) (e : Word) : Word :=
  if errCause e = 0x00 then setErrCause (causeCode c) e else setErrOvf e

end Sys2Proof.Machine
end

