-- ==== Sys2Proof/Machine/Ops.lean ====
section
/-! DEFINITION. The named operations every command is made of: the reads and writes of the four elements (10_state.md R33),
the end of a command with a response, and taking a fault (60_exceptions.md R173). GCRC16 has no memory (20_memory.md R40) and
no return from a fault (R175). -/

namespace Sys2Proof.Machine

/-- The accumulator. -/
def readCrc (s : State) : Word :=
  s.crc

/-- `crc <- v`. -/
def writeCrc (v : Word) (s : State) : State :=
  { s with crc := v }

/-- The status word being put together. -/
def readStsWord (s : State) : Word :=
  s.stsWord

/-- The number of response bytes consumed. -/
def readStsFill (s : State) : Fill :=
  s.stsFill

/-- `sts_word <- w; sts_fill <- f`. -/
def writeSts (w : Word) (f : Fill) (s : State) : State :=
  { s with stsWord := w, stsFill := f }

/-- `err`, whose bits 15:9 read as 0 (10_state.md R24). -/
def readErr (s : State) : Word :=
  s.err &&& errMask

/-- `err <- e`; bits 15:9 are hard-wired 0 (R24). -/
def writeErr (e : Word) (s : State) : State :=
  { s with err := e &&& errMask }

/-- `respond(v)` (00_scope.md R14): the command in flight has the response `(v, 0)`. -/
def respond (v : Word) (s : State) : State :=
  { s with port := .executing { value := v, fault := false } }

/-- `raise Fault(cause)` (60_exceptions.md R173): record it, answer `(0x0000, 1)`, change nothing else. -/
def raiseFault (c : Cause) (s : State) : State :=
  { writeErr (recordFault c (readErr s)) s with port := .executing { value := 0x0000, fault := true } }

end Sys2Proof.Machine
end

