-- ==== Sys2Proof/Machine/Control.lean ====
section
/-! DEFINITION. The control commands (42_control.md). -/

namespace Sys2Proof.Machine

/-- NOP (42_control.md R150). -/
def execNop (s : State) : Host.Outcome State Fault Refusal :=
  .next (respond 0x0000 s)

/-- ERR.READ (R151). -/
def execErrRead (s : State) : Host.Outcome State Fault Refusal :=
  .next (respond (readErr s) s)

/-- ERR.CLEAR (R152). -/
def execErrClear (s : State) : Host.Outcome State Fault Refusal :=
  .next (respond 0x0000 (writeErr 0x0000 s))

end Sys2Proof.Machine
end

