-- ==== Sys2Proof/Machine/Checksum.lean ====
section
/-! DEFINITION. The pure functions of the CRC unit (40_crc.md part 1): CrcStep, Checksum and the table-driven twin. -/

namespace Sys2Proof.Machine

/-- One shift/XOR step of the loop of 40_crc.md R100. -/
def crcShift (c : Word) : Word :=
  if c.getLsbD 15 then (c <<< 1) ^^^ Config.crcPoly else c <<< 1

/-- `n` shift/XOR steps. -/
def crcShifts : Nat → Word → Word
  | 0, c => c
  | n + 1, c => crcShifts n (crcShift c)

/-- `CrcStep(c, d)` (R100): the byte enters at the top, most significant bit first (20_memory.md R42). -/
def crcStep (c : Word) (d : Byte) : Word :=
  crcShifts 8 (c ^^^ (zext16 d <<< 8))

/-- `TableStep(c, d)` (R103). -/
def tableStep (c : Word) (d : Byte) : Word :=
  (c <<< 8) ^^^ tableEntry (hiByte c ^^^ d)

/-- The byte update as the parameter CRC_IMPL has it (R103, 00_scope.md R9). -/
def crcUpdate : Config.CrcImpl → Word → Byte → Word
  | .bitserial => crcStep
  | .table => tableStep

/-- The accumulator after the bytes `m`, from `c`. -/
def crcFold (c : Word) (m : List Byte) : Word :=
  m.foldl crcStep c

/-- `Checksum(m)` (R101). -/
def checksum (m : List Byte) : Word :=
  crcFold Config.crcInit m ^^^ Config.crcXorOut

end Sys2Proof.Machine
end

