-- ==== Sys2Proof/Machine/Crc.lean ====
section
/-! DEFINITION. The five commands of the CRC unit (40_crc.md part 2). -/

namespace Sys2Proof.Machine

/-- CRC.INIT (40_crc.md R110). -/
def execCrcInit (s : State) : Host.Outcome State Fault Refusal :=
  .next (respond 0x0000 (writeCrc Config.crcInit s))

/-- CRC.BYTE d (R111). -/
def execCrcByte (d : Byte) (s : State) : Host.Outcome State Fault Refusal :=
  .next (respond 0x0000 (writeCrc (crcStep (readCrc s) d) s))

/-- CRC.READ (R112). -/
def execCrcRead (s : State) : Host.Outcome State Fault Refusal :=
  .next (respond (readCrc s) s)

/-- CRC.EMITHI (R113). -/
def execCrcEmitHi (s : State) : Host.Outcome State Fault Refusal :=
  .next (respond (zext16 (hiByte (readCrc s))) s)

/-- CRC.EMITLO (R114). -/
def execCrcEmitLo (s : State) : Host.Outcome State Fault Refusal :=
  .next (respond (zext16 (loByte (readCrc s))) s)

end Sys2Proof.Machine
end

