-- ==== Sys2Proof/Machine/Status.lean ====
section
/-! DEFINITION. The status parser (41_status.md): the classification of a status word and the five commands. -/

namespace Sys2Proof.Machine

/-- `Classify(w)` (41_status.md R130): the 16-bit words 0x0000 and 0x0001 are the two failures (90_conflicts.md C5). -/
def classify (w : Word) : StatusOutcome :=
  if w = 0x0000 then .invalidCommand
  else if w = 0x0001 then .checksumMismatch
  else .success

/-- `OutcomeCode` (R130, 92_eei_decisions.md D12). -/
def outcomeCode : StatusOutcome → Word
  | .success => 0x0000
  | .invalidCommand => 0x0001
  | .checksumMismatch => 0x0002

/-- The source's `decode_status` as a function of the whole response (R130): it fails only on fewer than two bytes. -/
def decodeStatus : List Byte → Option StatusOutcome
  | b0 :: b1 :: _ => some (classify (joinBytes b1 b0))
  | _ => none

/-- STS.CLEAR (R131). -/
def execStsClear (s : State) : Host.Outcome State Fault Refusal :=
  .next (respond 0x0000 (writeSts 0x0000 .zero s))

/-- What STS.BYTE does to the status parser's state (R132). -/
def consumeByte (d : Byte) (s : State) : State :=
  match readStsFill s with
  | .zero => writeSts (zext16 d) .one s
  | .one => writeSts (joinBytes d (loByte (readStsWord s))) .two s
  | .two => s

/-- STS.BYTE d (R132). -/
def execStsByte (d : Byte) (s : State) : Host.Outcome State Fault Refusal :=
  .next (respond 0x0000 (consumeByte d s))

/-- Answer with a value that needs both response bytes, or raise ShortResponse (R133, R134). -/
def respondIfFilled (v : Word) (s : State) : State :=
  match readStsFill s with
  | .two => respond v s
  | .zero => raiseFault .shortResponse s
  | .one => raiseFault .shortResponse s

/-- STS.READ (R133). -/
def execStsRead (s : State) : Host.Outcome State Fault Refusal :=
  .next (respondIfFilled (readStsWord s) s)

/-- STS.OUTCOME (R134). -/
def execStsOutcome (s : State) : Host.Outcome State Fault Refusal :=
  .next (respondIfFilled (outcomeCode (classify (readStsWord s))) s)

/-- STS.FILL (R135). -/
def execStsFill (s : State) : Host.Outcome State Fault Refusal :=
  .next (respond (fillWord (readStsFill s)) s)

end Sys2Proof.Machine
end

