-- ==== Sys2Proof/Machine/Dispatch.lean ====
section
/-! DEFINITION. The meaning of every command (30_encoding.md R64). -/

namespace Sys2Proof.Machine

def exec (i : Instr) (s : State) : Host.Outcome State Fault Refusal :=
  match i with
  | .nop => Sys2Proof.Machine.execNop s
  | .crcInit => Sys2Proof.Machine.execCrcInit s
  | .crcByte d => Sys2Proof.Machine.execCrcByte d s
  | .crcRead => Sys2Proof.Machine.execCrcRead s
  | .crcEmitHi => Sys2Proof.Machine.execCrcEmitHi s
  | .crcEmitLo => Sys2Proof.Machine.execCrcEmitLo s
  | .stsClear => Sys2Proof.Machine.execStsClear s
  | .stsByte d => Sys2Proof.Machine.execStsByte d s
  | .stsRead => Sys2Proof.Machine.execStsRead s
  | .stsOutcome => Sys2Proof.Machine.execStsOutcome s
  | .stsFill => Sys2Proof.Machine.execStsFill s
  | .errRead => Sys2Proof.Machine.execErrRead s
  | .errClear => Sys2Proof.Machine.execErrClear s

end Sys2Proof.Machine
end

