-- ==== Sys2Proof/Machine/Port.lean ====
section
/-! DEFINITION. The ports and the handshake at one rising edge of `clk` (30_encoding.md R60, R61), and reset
(70_reset_and_hazards.md R200 to R202). `step` runs the accepted word. -/

namespace Sys2Proof.Machine

/-- The command in flight's response, if a command is in flight (10_state.md R29). -/
def inFlight (s : State) : Option Response :=
  match s.port with
  | .executing r => some r
  | .offering r => some r
  | .idle => none
  | .unreset => none

/-- `cmd_ready` (R60): no reset and no command in flight. -/
def cmdReady (e : Edge) (s : State) : Bool :=
  e.rstN && (inFlight s).isNone

/-- The response on the port at this edge: the one being offered, or the one that is due at it; none while `rst_n = 0`
(R60, 70_reset_and_hazards.md R200). `rsp_valid` is whether there is one. -/
def rspOffered (e : Edge) (s : State) : Option Response :=
  match e.rstN, s.port with
  | true, .offering r => some r
  | true, .executing r => if e.rspDue then some r else none
  | _, _ => none

/-- The word the host must hold after this edge: the one it offers and that is not accepted (R60). -/
def heldAfter (e : Edge) (s : State) : Option Word :=
  if e.cmdValid && !cmdReady e s then some e.cmdWord else none

/-- The host offers another word than the one it must hold (R60; log entry 3). -/
def breaksHandshake (e : Edge) (s : State) : Bool :=
  match s.held with
  | some w => e.cmdValid && (e.cmdWord != w)
  | none => false

/-- What this edge does: reset first, then the two refusals, then acceptance (R60, R200, R206). -/
def edgeKind (e : Edge) (s : State) : EdgeKind :=
  if e.rstN = false then .reset
  else if s.port = .unreset then (if e.cmdValid then .refuse .commandBeforeReset else .quiet)
  else if breaksHandshake e s then .refuse .brokenHandshake
  else if e.cmdValid && cmdReady e s then .accept e.cmdWord
  else .quiet

/-- Reset (70_reset_and_hazards.md R200, R201): every element takes its reset value, the command in flight is dropped without
a response and an offered response is withdrawn. The edges still to come stay, and so does the host's duty to hold a word it
offers (log entry 3). -/
def resetEdge (e : Edge) (s : State) : State :=
  { State.reset with edges := s.edges, held := heldAfter e s }

/-- The response `r` is delivered: the command is no longer in flight (R60). -/
def deliver (r : Response) (s : State) : State :=
  { s with port := .idle, delivered := r :: s.delivered }

/-- The response `r` is on the port: taken, or still offered (R60). -/
def offer (e : Edge) (r : Response) (s : State) : State :=
  if e.rspReady then deliver r s else { s with port := .offering r }

/-- An edge that accepts no command. -/
def quietEdge (e : Edge) (s : State) : State :=
  match rspOffered e s with
  | some r => offer e r { s with held := heldAfter e s }
  | none => { s with held := heldAfter e s }

/-- The state an accepted word runs in. -/
def acceptEdge (e : Edge) (s : State) : State :=
  { s with held := heldAfter e s }

/-- The edge that offers the word `w`: nothing else happens at it. -/
def offerEdge (w : Word) : Edge :=
  { rstN := true, cmdValid := true, cmdWord := w, rspReady := false, rspDue := false }

end Sys2Proof.Machine
end

