-- ==== Sys2Proof/Machine/Step.lean ====
section
/-! DEFINITION. One step: one rising edge of `clk` (30_encoding.md R60), running the word it accepts, if any. -/

namespace Sys2Proof.Machine

/-- Running an accepted word (10_state.md R31: whole, at once): the command it stands for, or the fault entry of
60_exceptions.md R173 for a word that is none. -/
def runWord (w : Word) (s : State) : Host.Outcome State Fault Refusal :=
  match decode w with
  | .ok i => exec i s
  | .error d => .next (raiseFault (decodeCause d) s)

/-- One edge, in the state without it. -/
def runEdge (e : Edge) (s : State) : Host.Outcome State Fault Refusal :=
  match edgeKind e s with
  | .reset => .next (resetEdge e s)
  | .refuse why => .refused why
  | .accept w => runWord w (acceptEdge e s)
  | .quiet => .next (quietEdge e s)

/-- One step: the next scheduled edge. With none scheduled the engine waits and nothing changes (00_scope.md R17,
70_reset_and_hazards.md R202). -/
def step (s : State) : Host.Outcome State Fault Refusal :=
  match s.edges with
  | [] => .next s
  | e :: rest => runEdge e { s with edges := rest }

/-- `s` with the word offered at the very next edge, to an engine that has been reset, has no command in flight and holds the
host to no other word (log entry 1). -/
def State.withFetchWord (s : State) (nbits w : Nat) : State :=
  { s with port := .idle, held := none, edges := offerEdge (tableWord nbits w) :: s.edges }

end Sys2Proof.Machine
end

