-- ==== Sys2Proof/Machine/Drive.lean ====
section
/-! DEFINITION. Commands taken as whole steps (10_state.md R31), the edges of a host that sends them at any pace
(30_encoding.md R60, 60_exceptions.md R192), and what any edges ask of the engine: the two views of a run that the refinement
statements compare. -/

namespace Sys2Proof.Machine

/-- The response of the command in flight, if there is one, taken. -/
def settle (s : State) : State :=
  match inFlight s with
  | some r => deliver r s
  | none => s

/-- One command as one step from state to state and response (10_state.md R31): run the word and deliver its response. -/
def issue (s : State) (w : Word) : State :=
  match runWord w s with
  | .next t => settle t
  | .fault _ => s
  | .refused _ => s

/-- The words in order, each as one step (20_memory.md R51). -/
def issueAll (s : State) (ws : List Word) : State :=
  ws.foldl issue s

/-- What one edge can ask of the engine taken as whole steps. -/
inductive Event where
  /-- A reset (70_reset_and_hazards.md R200). -/
  | reset
  /-- A command, accepted at this edge (30_encoding.md R60). -/
  | command (w : Word)
  deriving DecidableEq, Repr

/-- What this edge asks, read off the pins: `rst_n = 0` is a reset, `cmd_valid = 1` and `cmd_ready = 1` accept the word
(30_encoding.md R60). -/
def eventsAt (e : Edge) (s : State) : List Event :=
  if e.rstN = false then [.reset]
  else if e.cmdValid && cmdReady e s then [.command e.cmdWord]
  else []

/-- What the next `n` steps ask, in order. -/
def events : Nat → State → List Event
  | 0, _ => []
  | n + 1, s =>
    match s.edges, step s with
    | e :: _, .next t => eventsAt e s ++ events n t
    | _, _ => []

/-- One event as one whole step: a reset gives the reset state, a command its effect and its response. -/
def happen (s : State) : Event → State
  | .reset => State.reset
  | .command w => issue s w

/-- What the host does with two of its pins at one edge: whether it offers the next word, and whether it is ready to take a
response. -/
structure HostPins where
  offers : Bool
  ready : Bool
  deriving DecidableEq, Repr

/-- How one command goes at the port: the edges before it, one `rsp_ready` each; `rsp_ready` at the edge that offers it; what
the host does at each edge after acceptance until its response is due (CMD_LATENCY - 1 of them); at each edge the host leaves
the due response waiting, whether it offers the next word; and whether it does where it takes the response. -/
structure Pace where
  gap : List Bool
  readyAtOffer : Bool
  latency : List HostPins
  stall : List Bool
  offersAtTake : Bool
  deriving DecidableEq, Repr

/-- An edge that does not accept: the host offers the word `next`, if there is one, where `offers`, and is ready for a response
where `ready`; `due` says whether a response is due. -/
def hostEdge (next : Option Word) (offers ready due : Bool) : Edge :=
  { rstN := true, cmdValid := offers && next.isSome, cmdWord := next.getD 0x0000, rspReady := ready, rspDue := due }

/-- An edge at which the host neither offers a word nor takes a response. -/
def waitEdge (due : Bool) : Edge :=
  hostEdge none false false due

/-- An edge at which the host takes the response that is due, and offers no word. -/
def takeEdge : Edge :=
  hostEdge none false true true

/-- The edges of one command at a pace, where `next` is the word of the command after it: the host may offer and hold that one
under back-pressure. -/
def transact (p : Pace) (w : Word) (next : Option Word) : List Edge :=
  p.gap.map (fun ready => hostEdge none false ready false) ++
    [{ offerEdge w with rspReady := p.readyAtOffer }] ++
    p.latency.map (fun h => hostEdge next h.offers h.ready false) ++
    p.stall.map (fun offers => hostEdge next offers false true) ++
    [hostEdge next p.offersAtTake true true]

/-- The first word of a command sequence. -/
def firstWord (cmds : List (Pace × Word)) : Option Word :=
  cmds.head?.map Prod.snd

/-- The edges of a command sequence, each command at its own pace. -/
def drive : List (Pace × Word) → List Edge
  | [] => []
  | (p, w) :: rest => transact p w (firstWord rest) ++ drive rest

/-- The words that feed a byte list to the CRC unit (pseudo-instruction CRC.SEQ, 30_encoding.md R73). -/
def crcWords (m : List Byte) : List Word :=
  m.map fun d => encode (.crcByte d)

/-- The words that feed response bytes to the status parser (STS.SEQ, R73). -/
def stsWords (m : List Byte) : List Word :=
  m.map fun d => encode (.stsByte d)

/-- The commands of the CRC unit (40_crc.md). -/
def isCrcCommand : Instr → Bool
  | .crcInit | .crcByte _ | .crcRead | .crcEmitHi | .crcEmitLo => true
  | .nop | .stsClear | .stsByte _ | .stsRead | .stsOutcome | .stsFill | .errRead | .errClear => false

/-- The commands of the status parser (41_status.md). -/
def isStsCommand : Instr → Bool
  | .stsClear | .stsByte _ | .stsRead | .stsOutcome | .stsFill => true
  | .nop | .crcInit | .crcByte _ | .crcRead | .crcEmitHi | .crcEmitLo | .errRead | .errClear => false

/-- The read commands (20_memory.md R49). -/
def isReadCommand : Instr → Bool
  | .crcRead | .crcEmitHi | .crcEmitLo | .stsRead | .stsOutcome | .stsFill | .errRead => true
  | .nop | .crcInit | .crcByte _ | .stsClear | .stsByte _ | .errClear => false

end Sys2Proof.Machine
end

