-- ==== Sys2Proof/Machine/Assembler.lean ====
section
/-! DEFINITION. The assembler syntax and the pseudo-instructions (30_encoding.md R72, R73), as text over characters. The
choices the rules leave open are in log entry 5. -/

namespace Sys2Proof.Machine

/-- The pseudo-instructions of R73. -/
inductive Pseudo where
  | crcSeq (bs : List Byte)
  | crcFrame (header : List Byte)
  | crcAppend
  | stsSeq (bs : List Byte)
  | stsParse (b0 b1 : Byte)
  deriving DecidableEq, Repr

/-- The expansion of a pseudo-instruction (R73). -/
def expand : Pseudo → List Instr
  | .crcSeq bs => bs.map .crcByte
  | .crcFrame h => .crcInit :: h.map .crcByte
  | .crcAppend => [.crcEmitHi, .crcEmitLo]
  | .stsSeq bs => bs.map .stsByte
  | .stsParse b0 b1 => [.stsClear, .stsByte b0, .stsByte b1, .stsOutcome]

/-- A blank inside a line. -/
def isBlank (c : Char) : Bool :=
  c == ' ' || c == '\t'

/-- A line without its comment: `;` starts one that runs to the end (R72). -/
def stripComment (l : List Char) : List Char :=
  l.takeWhile (· != ';')

/-- A text without the blanks around it. -/
def trimBlanks (l : List Char) : List Char :=
  ((l.dropWhile isBlank).reverse.dropWhile isBlank).reverse

/-- The parts of a text between its separators. -/
def splitAt (sep : Char) : List Char → List (List Char)
  | [] => [[]]
  | c :: rest =>
    if c == sep then [] :: splitAt sep rest
    else match splitAt sep rest with
      | [] => [[c]]
      | part :: parts => (c :: part) :: parts

/-- The value of a decimal digit. -/
def decimalDigit (c : Char) : Option Nat :=
  if '0'.toNat ≤ c.toNat ∧ c.toNat ≤ '9'.toNat then some (c.toNat - '0'.toNat) else none

/-- The value of a hex digit. -/
def hexDigit (c : Char) : Option Nat :=
  if 'A'.toNat ≤ c.toNat ∧ c.toNat ≤ 'F'.toNat then some (c.toNat - 'A'.toNat + 10)
  else if 'a'.toNat ≤ c.toNat ∧ c.toNat ≤ 'f'.toNat then some (c.toNat - 'a'.toNat + 10)
  else decimalDigit c

/-- The value of a number's digits in a base, none where a character is no digit of it. -/
def digitsValue (digit : Char → Option Nat) (base : Nat) : Nat → List Char → Option Nat
  | acc, [] => some acc
  | acc, c :: rest =>
    match digit c with
    | some d => digitsValue digit base (acc * base + d) rest
    | none => none

/-- The value of `0x` and exactly `n` hex digits. -/
def parseHex (n : Nat) : List Char → Option Nat
  | '0' :: 'x' :: ds => if ds.length = n then digitsValue hexDigit 16 0 ds else none
  | _ => none

/-- The value of one or more decimal digits. -/
def parseDecimal : List Char → Option Nat
  | [] => none
  | c :: ds => digitsValue decimalDigit 10 0 (c :: ds)

/-- A byte operand: `0x00` to `0xFF`, or 0 to 255 (R72). -/
def parseByte (l : List Char) : Option Byte :=
  match parseHex 2 l with
  | some v => some (BitVec.ofNat 8 v)
  | none =>
    match parseDecimal l with
    | some v => if v ≤ 255 then some (BitVec.ofNat 8 v) else none
    | none => none

/-- All the operands, none where one of them is no byte. -/
def parseBytes : List (List Char) → Option (List Byte)
  | [] => some []
  | l :: ls =>
    match parseByte l, parseBytes ls with
    | some b, some bs => some (b :: bs)
    | _, _ => none

/-- The operands after a mnemonic, separated by commas. -/
def operandTexts (rest : List Char) : List (List Char) :=
  if rest = [] then [] else (splitAt ',' rest).map trimBlanks

/-- The command of an opcode with these byte operands: one for CRC.BYTE and STS.BYTE, none for the others (R72). -/
def commandOf (o : Opcode) (bs : List Byte) : Option Instr :=
  match o.takesByte, bs with
  | true, [d] => some (o.command d)
  | false, [] => some (o.command 0)
  | _, _ => none

/-- The opcode a mnemonic spells, in upper case (R72). -/
def opcodeOf (m : List Char) : Option Opcode :=
  Opcode.all.find? fun o => o.mnemonic.toList == m

/-- The pseudo-instruction a mnemonic and its operands spell (R73). DESIGN CHOICE: STS.SEQ with no operands expands to nothing, as
R73 says of CRC.SEQ (log entry 5). -/
def pseudoOf (m : List Char) (bs : List Byte) : Option Pseudo :=
  if m = "CRC.SEQ".toList then some (.crcSeq bs)
  else if m = "CRC.FRAME".toList then if bs.length = 13 then some (.crcFrame bs) else none
  else if m = "CRC.APPEND".toList then if bs = [] then some .crcAppend else none
  else if m = "STS.SEQ".toList then some (.stsSeq bs)
  else if m = "STS.PARSE".toList then
    match bs with
    | [b0, b1] => some (.stsParse b0 b1)
    | _ => none
  else none

/-- The raw word of the `.word` directive's operand, with no checks on it (R72). -/
def rawWordOf (rest : List Char) : Option Word :=
  match parseHex 4 rest with
  | some v => some (BitVec.ofNat 16 v)
  | none => none

/-- The words of a mnemonic and the text after it. -/
def assembleParts (m rest : List Char) : Option (List Word) :=
  if m = ".word".toList then (rawWordOf rest).map fun w => [w]
  else
    match parseBytes (operandTexts rest) with
    | none => none
    | some bs =>
      match opcodeOf m with
      | some o => (commandOf o bs).map fun i => [encode i]
      | none => (pseudoOf m bs).map fun p => (expand p).map encode

/-- The words of one line, none for an assembly error (R72). A line with no command has none. -/
def assembleLine (l : List Char) : Option (List Word) :=
  let text := trimBlanks (stripComment l)
  if text = [] then some []
  else assembleParts (text.takeWhile (! isBlank ·)) (trimBlanks (text.dropWhile (! isBlank ·)))

/-- The words of some lines, in order; one bad line is an assembly error of the whole. -/
def assembleLines : List (List Char) → Option (List Word)
  | [] => some []
  | l :: ls =>
    match assembleLine l, assembleLines ls with
    | some ws, some rest => some (ws ++ rest)
    | _, _ => none

/-- The words of a program's text, one command a line (R72). -/
def assemble (text : List Char) : Option (List Word) :=
  assembleLines (splitAt '\n' text)

/-- The upper-case hex digit of a value below 16. -/
def hexChar (v : Nat) : Char :=
  if v < 10 then Char.ofNat ('0'.toNat + v) else Char.ofNat ('A'.toNat + (v - 10))

/-- A byte as `0xNN` (92_eei_decisions.md D25). -/
def byteText (b : Byte) : List Char :=
  ['0', 'x', hexChar (b.toNat / 16), hexChar (b.toNat % 16)]

/-- A word as `0xNNNN` (R72). -/
def wordText (w : Word) : List Char :=
  ['0', 'x', hexChar ((hiByte w).toNat / 16), hexChar ((hiByte w).toNat % 16),
   hexChar ((loByte w).toNat / 16), hexChar ((loByte w).toNat % 16)]

/-- Operand texts with commas between them. -/
def joinOperands : List (List Char) → List Char
  | [] => []
  | [l] => l
  | l :: ls => l ++ ',' :: joinOperands ls

/-- A line of assembler: a mnemonic and its operand texts, if any (R72, R73). -/
def lineText (mnemonic : List Char) (operands : List (List Char)) : List Char :=
  match operands with
  | [] => mnemonic
  | _ :: _ => mnemonic ++ ' ' :: joinOperands operands

/-- The operand texts of a command. -/
def operandsOf (i : Instr) : List (List Char) :=
  if i.opcode.takesByte then [byteText i.data] else []

/-- A command as a line of assembler (R72). -/
def instrText (i : Instr) : List Char :=
  lineText i.opcode.mnemonic.toList (operandsOf i)

/-- A text that can stand as one operand: not empty, with no blank, comma or start of a comment in it. -/
def isOperandText (l : List Char) : Bool :=
  !l.isEmpty && l.all fun c => !isBlank c && c != ',' && c != ';'

/-- The value of a decimal numeral, its digits from the left. -/
def decimalValue (ds : List Char) : Nat :=
  ds.foldl (fun v c => 10 * v + (c.toNat - '0'.toNat)) 0

end Sys2Proof.Machine
end

