-- ==== Sys2Proof/Machine/Frame.lean ====
section
/-! DEFINITION. The data formats the two units process (30_encoding.md parts 5 and 6): the 15-byte frame a host builds and
the response it feeds. The engine interprets none of these fields (R82, R84); the host assembles (92_eei_decisions.md D1). -/

namespace Sys2Proof.Machine

/-- The four coordinates, as their 16-bit two's-complement patterns, none of them validated (30_encoding.md R84, R13). -/
structure Rect where
  x0 : Word
  y0 : Word
  x1 : Word
  y1 : Word
  deriving DecidableEq, Repr

/-- The command code of a frame (R81; 90_conflicts.md C1). -/
def commandCode : Config.HostOp → Word
  | .redraw => 0x0004
  | .setMode => 0x0005

/-- Frame bytes 0 to 12: code and parameter big-endian, the padding byte, the coordinates little-endian (R80 to R84, R87). -/
def frameHeader (cmd param : Word) (r : Rect) : List Byte :=
  be16 cmd ++ be16 param ++ [0x00] ++ le16 r.x0 ++ le16 r.y0 ++ le16 r.x1 ++ le16 r.y1

/-- EncodeFrame (R87): the header and its checksum, high byte first (R85). -/
def encodeFrame (cmd param : Word) (r : Rect) : List Byte :=
  frameHeader cmd param r ++ be16 (checksum (frameHeader cmd param r))

/-- The frame of set-mode: the parameter is one of the eight mode codes (R82). -/
def setModeFrame (mode : Fin 8) (r : Rect) : List Byte :=
  encodeFrame (commandCode .setMode) (BitVec.ofNat 16 mode.val) r

/-- The frame of redraw: the parameter is always 0x0000 (R82). -/
def redrawFrame (r : Rect) : List Byte :=
  encodeFrame (commandCode .redraw) 0x0000 r

/-- A frame whose last two bytes are the checksum of the bytes before them, high byte first (R85). -/
def frameChecks (f : List Byte) : Bool :=
  f.length == 15 && f.drop 13 == be16 (checksum (f.take 13))

end Sys2Proof.Machine
end

