-- ==== Sys2Proof/Safety.lean ====
section
/-! DEFINITION. What the spec promises of every state a run reaches: the legal values of the elements (10_state.md R22, R24)
and of the responses (30_encoding.md R71), and when a step has a meaning. -/

namespace Sys2Proof.Machine

/-- `err` holds a legal value (10_state.md R24): bits 15:9 are 0, CAUSE is 0x00 to 0x03, and OVF implies a cause. -/
def ErrLegal (s : State) : Prop :=
  s.err.extractLsb' 9 7 = 0 ∧ (errCause s.err).toNat ≤ 3 ∧ (errOvf s.err = true → errCause s.err ≠ 0x00)

/-- `sts_word` agrees with `sts_fill` (R22): zero at fill 0, a zero high byte at fill 1. -/
def StsLegal (s : State) : Prop :=
  (s.stsFill = .zero → s.stsWord = 0x0000) ∧ (s.stsFill = .one → hiByte s.stsWord = 0x00)

/-- A faulted response carries the value 0x0000 (30_encoding.md R71). -/
def ResponseLegal (r : Response) : Prop :=
  r.fault = true → r.value = 0x0000

/-- Every response in flight or delivered is legal. -/
def ResponsesLegal (s : State) : Prop :=
  (∀ r, inFlight s = some r → ResponseLegal r) ∧ ∀ r ∈ s.delivered, ResponseLegal r

/-- The invariant of GCRC16. -/
structure Legal (s : State) : Prop where
  err : ErrLegal s
  sts : StsLegal s
  responses : ResponsesLegal s

/-- `e'` is `e` with the cause `c` recorded (60_exceptions.md R174): the first cause since the last clear is kept and a later
one only sets OVF; bits 15:9 stay 0 (10_state.md R24). -/
def CauseRecorded (c : Cause) (e e' : Word) : Prop :=
  (errCause e = 0x00 → errCause e' = causeCode c ∧ errOvf e' = errOvf e) ∧
  (errCause e ≠ 0x00 → errCause e' = errCause e ∧ errOvf e' = true) ∧
  e'.extractLsb' 9 7 = 0

/-- `t` is `s` after the fault entry of cause `c` (60_exceptions.md R173): the cause is recorded, the response in flight is
`(0x0000, 1)`, and nothing else differs. -/
def FaultEntered (c : Cause) (s t : State) : Prop :=
  CauseRecorded c s.err t.err ∧ t = { s with err := t.err, port := .executing { value := 0x0000, fault := true } }

/-- `t` is `s` after a command with the response `(v, 0)` that writes no element (30_encoding.md R71). -/
def answered (v : Word) (s : State) : State :=
  { s with port := .executing { value := v, fault := false } }

/-- The two states agree on the four architectural elements (10_state.md R20). -/
def SameElements (s t : State) : Prop :=
  s.crc = t.crc ∧ s.stsWord = t.stsWord ∧ s.stsFill = t.stsFill ∧ s.err = t.err

/-- The host keeps its duties at the next edge (30_encoding.md R60, 70_reset_and_hazards.md R206): it changes no word it must
hold, and offers no command before the first reset. -/
def HostKeeps (e : Edge) (s : State) : Prop :=
  e.rstN = true →
    (s.port = .unreset → e.cmdValid = false) ∧
    (s.port ≠ .unreset → ∀ w, s.held = some w → e.cmdValid = true → e.cmdWord = w)

/-- The host keeps its duties at each of the next `n` edges. -/
def HostKeepsFor : Nat → State → Prop
  | 0, _ => True
  | n + 1, s => (∀ e rest, s.edges = e :: rest → HostKeeps e s) ∧ ∀ t, step s = .next t → HostKeepsFor n t

end Sys2Proof.Machine
end

