-- ==== Sys2Proof/Certificates/Slice0/Obligations.lean ====
section
/-! DEFINITION. The statements about GCRC16, in the order of OBLIGATIONS.json. -/

open Sys2Proof Sys2Proof.Machine

/-! ### Encoding -/

/-- R62, R64, R70: the decoder reads back every command from its word, with its operand. -/
def Obligations.DecodeOfEncodeIsTheCommand : Prop :=
  ∀ i : Instr, decode (encode i) = .ok i

/-- R64, R69, R70: a word that decodes is the one word of its command; no bit of it is dropped. -/
def Obligations.EncodeOfDecodeIsTheWord : Prop :=
  ∀ (w : Word) (i : Instr), decode w = .ok i → encode i = w

/-- R65, R66, R67: what an illegal word raises, in any state. -/
def Obligations.IllegalWordsRaiseTheirCause : Prop :=
  causeCode .illegalCommand = 0x01 ∧ causeCode .reservedField = 0x02 ∧
  (∀ (op rsv : BitVec 4) (data : Byte) (s : State), (op = 0x6 ∨ op = 0x7 ∨ op = 0xD) →
    ∃ t, runWord (op ++ rsv ++ data) s = .next t ∧ FaultEntered .illegalCommand s t) ∧
  (∀ (op rsv : BitVec 4) (data : Byte) (s : State), op ≠ 0x6 → op ≠ 0x7 → op ≠ 0xD → rsv ≠ 0 →
    ∃ t, runWord (op ++ rsv ++ data) s = .next t ∧ FaultEntered .reservedField s t) ∧
  (∀ (op : BitVec 4) (data : Byte) (s : State), op ≠ 0x6 → op ≠ 0x7 → op ≠ 0xD → op ≠ 0x2 → op ≠ 0x9 → data ≠ 0x00 →
    ∃ t, runWord (op ++ 0x0#4 ++ data) s = .next t ∧ FaultEntered .reservedField s t)

/-- R70: the decoder's checks in their order on the three fields, and how many of the 65536 words come out each way. -/
def Obligations.DecoderChecksInOrderWithTheStatedCounts : Prop :=
  (∀ (op rsv : BitVec 4) (data : Byte), (op = 0x6 ∨ op = 0x7 ∨ op = 0xD) →
    decode (op ++ rsv ++ data) = .error .illegalCommand) ∧
  (∀ (op rsv : BitVec 4) (data : Byte), op ≠ 0x6 → op ≠ 0x7 → op ≠ 0xD → rsv ≠ 0 →
    decode (op ++ rsv ++ data) = .error .reservedField) ∧
  (∀ (op : BitVec 4) (data : Byte), op ≠ 0x6 → op ≠ 0x7 → op ≠ 0xD → op ≠ 0x2 → op ≠ 0x9 → data ≠ 0x00 →
    decode (op ++ 0x0#4 ++ data) = .error .reservedField) ∧
  (∀ (op : BitVec 4) (data : Byte), op ≠ 0x6 → op ≠ 0x7 → op ≠ 0xD → (op = 0x2 ∨ op = 0x9 ∨ data = 0x00) →
    ∃ i, decode (op ++ 0x0#4 ++ data) = .ok i ∧ i.fields = { op := op, rsv := 0x0, data := data }) ∧
  ((List.range 65536).countP fun n => decide (decode (BitVec.ofNat 16 n) = .error .illegalCommand)) = 12288 ∧
  ((List.range 65536).countP fun n => decide (decode (BitVec.ofNat 16 n) = .error .reservedField)) = 52725 ∧
  ((List.range 65536).countP fun n =>
    match decode (BitVec.ofNat 16 n) with
    | .ok i => i.opcode.takesByte
    | .error _ => false) = 512 ∧
  ((List.range 65536).countP fun n =>
    match decode (BitVec.ofNat 16 n) with
    | .ok i => !i.opcode.takesByte
    | .error _ => false) = 11

/-- R64: the thirteen rows with their mnemonics; a word decodes to a row's opcode exactly when it fits the row's match and
mask, no word fits two rows, and a word that fits none is no command. -/
def Obligations.OpcodeTableRowsDecideTheCommand : Prop :=
  (opcodeTable.map fun r => r.opcode.mnemonic) =
    ["NOP", "CRC.INIT", "CRC.BYTE", "CRC.READ", "CRC.EMITHI", "CRC.EMITLO", "STS.CLEAR", "STS.BYTE", "STS.READ",
     "STS.OUTCOME", "STS.FILL", "ERR.READ", "ERR.CLEAR"] ∧
  (∀ r ∈ opcodeTable, ∀ w : Word, r.fits w = true ↔ ∃ i, decode w = .ok i ∧ i.opcode = r.opcode) ∧
  (∀ r ∈ opcodeTable, ∀ r' ∈ opcodeTable, ∀ w : Word, r.fits w = true → r'.fits w = true → r = r') ∧
  (∀ w : Word, (∀ r ∈ opcodeTable, r.fits w = false) → ∃ d, decode w = .error d)

/-- A few words of 95_test_vectors.md 2.4 and of R64, written out bit by bit. -/
def Obligations.WordsOfTheSpecDecodeAsWritten : Prop :=
  decode 0b0000000000000000 = .ok .nop ∧ decode 0b0001000000000000 = .ok .crcInit ∧
  decode 0b0010000011111111 = .ok (.crcByte 0xFF) ∧ decode 0b1001000001010101 = .ok (.stsByte 0x55) ∧
  decode 0b1011000000000000 = .ok .stsOutcome ∧ decode 0b1111000000000000 = .ok .errClear ∧
  decode 0b0111111111111111 = .error .illegalCommand ∧ decode 0b1010000100000000 = .error .reservedField ∧
  decode 0b0000000000000001 = .error .reservedField

/-- R64 to R67: the decoder gives a command for exactly the words whose raw fields pass the three checks. -/
def Obligations.DecodedWordsAreTheWellFormedOnes : Prop :=
  ∀ w : Word, (∃ i, decode w = .ok i) ↔ (RawCommand.ofWord w).wellFormed = true

/-! ### The checksum function -/

/-- R100: CrcStep written out. -/
def Obligations.CrcStepIsEightShiftXorSteps : Prop :=
  ∀ (c : Word) (d : Byte),
    crcStep c d =
      (fun x : Word => if x.getLsbD 15 = true then (x <<< 1) ^^^ 0x1021#16 else x <<< 1)^[8]
        (c ^^^ (d.setWidth 16 <<< 8))

/-- R101: the checksum is the left fold of CrcStep from CRC_INIT, and with CRC_XOROUT = 0 it is the accumulator. -/
def Obligations.ChecksumIsTheLeftFold : Prop :=
  checksum [] = 0x0000 ∧ (∀ (m : List Byte) (b : Byte), checksum (m ++ [b]) = crcStep (checksum m) b) ∧
  Config.crcXorOut = 0x0000 ∧ ∀ m : List Byte, checksum m = m.foldl crcStep 0x0000

/-- R102: the table has 256 entries, the CrcStep of 0x0000 and each byte. -/
def Obligations.TableHoldsTheStepsFromZero : Prop :=
  crcTable.length = 256 ∧ (∀ i : Byte, crcTable[i.toNat]? = some (crcStep 0x0000 i)) ∧
  tableEntry 0x01 = 0x1021 ∧ tableEntry 0x00 = 0x0000

/-- R103: the table-driven update is CrcStep, so CRC_IMPL changes no value. -/
def Obligations.TableStepEqualsCrcStep : Prop :=
  (∀ (c : Word) (d : Byte), tableStep c d = (c <<< 8) ^^^ tableEntry (hiByte c ^^^ d)) ∧
  (∀ (c : Word) (d : Byte), tableStep c d = crcStep c d) ∧
  ∀ (impl impl' : Config.CrcImpl) (c : Word) (d : Byte), crcUpdate impl c d = crcUpdate impl' c d

/-- R105: the five derived properties. -/
def Obligations.ChecksumHasTheDerivedProperties : Prop :=
  checksum [] = 0x0000 ∧
  (crcStep 0x0000 0x00 = 0x0000 ∧
    ∀ (n : Nat) (m : List Byte), checksum (List.replicate n 0x00 ++ m) = checksum m) ∧
  ((∀ m : List Byte, checksum (m ++ be16 (checksum m)) = 0x0000) ∧
    ∀ (cmd param : Word) (r : Rect), checksum (encodeFrame cmd param r) = 0x0000) ∧
  (∀ a b : List Byte, a.length = b.length →
    checksum (List.zipWith (· ^^^ ·) a b) = checksum a ^^^ checksum b) ∧
  checksum [0x31, 0x32, 0x33, 0x34, 0x35, 0x36, 0x37, 0x38, 0x39] = 0x31C3

/-- R115: after CRC.INIT and the 15 bytes of a frame, in any state, `crc` is zero exactly when the last two bytes are the
checksum of the first 13, high byte first. -/
def Obligations.ZeroResidueExactlyOnFramesThatCheck : Prop :=
  ∀ (s : State) (f : List Byte), f.length = 15 →
    ((issueAll (issue s 0x1000) (crcWords f)).crc = 0x0000 ↔ f.drop 13 = be16 (checksum (f.take 13)))

/-! ### The commands: what each answers and leaves, and when its word faults -/

/-- R110. -/
def Obligations.CrcInitSetsTheAccumulatorToZero : Prop :=
  decode 0x1000 = .ok .crcInit ∧
  (∀ s : State, exec .crcInit s = .next { answered 0x0000 s with crc := 0x0000 }) ∧
  ∀ (rsv : BitVec 4) (data : Byte) (s : State), (rsv ≠ 0 ∨ data ≠ 0) →
    ∃ t, runWord (0x1#4 ++ rsv ++ data) s = .next t ∧ FaultEntered .reservedField s t

/-- R111: also that a faulting word consumes no byte. -/
def Obligations.CrcByteFoldsOneByte : Prop :=
  (∀ d : Byte, decode (0x2000 ||| d.setWidth 16) = .ok (.crcByte d)) ∧
  (∀ (d : Byte) (s : State), exec (.crcByte d) s = .next { answered 0x0000 s with crc := crcStep s.crc d }) ∧
  (∀ (d : Byte) (s : State), exec (.crcByte d) s = .next { answered 0x0000 s with crc := tableStep s.crc d }) ∧
  ∀ (rsv : BitVec 4) (d : Byte) (s : State), rsv ≠ 0 →
    ∃ t, runWord (0x2#4 ++ rsv ++ d) s = .next t ∧ FaultEntered .reservedField s t

/-- R112. -/
def Obligations.CrcReadAnswersTheAccumulator : Prop :=
  decode 0x3000 = .ok .crcRead ∧
  (∀ s : State, exec .crcRead s = .next (answered s.crc s)) ∧
  (∀ (rsv : BitVec 4) (data : Byte) (s : State), (rsv ≠ 0 ∨ data ≠ 0) →
    ∃ t, runWord (0x3#4 ++ rsv ++ data) s = .next t ∧ FaultEntered .reservedField s t) ∧
  (∀ (s : State) (m : List Byte),
    ∃ t, exec .crcRead (issueAll (issue s 0x1000) (crcWords m)) = .next t ∧
      inFlight t = some { value := checksum m, fault := false }) ∧
  ∀ (s : State) (cmd param : Word) (r : Rect),
    ∃ t, exec .crcRead (issueAll (issue s 0x1000) (crcWords (encodeFrame cmd param r))) = .next t ∧
      inFlight t = some { value := 0x0000, fault := false }

/-- R113. -/
def Obligations.CrcEmitHiAnswersTheHighByte : Prop :=
  decode 0x4000 = .ok .crcEmitHi ∧
  (∀ s : State, exec .crcEmitHi s = .next (answered ((s.crc.extractLsb' 8 8).setWidth 16) s)) ∧
  (∀ s : State, ((s.crc.extractLsb' 8 8).setWidth 16).extractLsb' 8 8 = 0x00#8) ∧
  ∀ (rsv : BitVec 4) (data : Byte) (s : State), (rsv ≠ 0 ∨ data ≠ 0) →
    ∃ t, runWord (0x4#4 ++ rsv ++ data) s = .next t ∧ FaultEntered .reservedField s t

/-- R114. -/
def Obligations.CrcEmitLoAnswersTheLowByte : Prop :=
  decode 0x5000 = .ok .crcEmitLo ∧
  (∀ s : State, exec .crcEmitLo s = .next (answered ((s.crc.extractLsb' 0 8).setWidth 16) s)) ∧
  (∀ s : State, ((s.crc.extractLsb' 0 8).setWidth 16).extractLsb' 8 8 = 0x00#8) ∧
  ∀ (rsv : BitVec 4) (data : Byte) (s : State), (rsv ≠ 0 ∨ data ≠ 0) →
    ∃ t, runWord (0x5#4 ++ rsv ++ data) s = .next t ∧ FaultEntered .reservedField s t

/-- R131. -/
def Obligations.StsClearEmptiesTheParser : Prop :=
  decode 0x8000 = .ok .stsClear ∧
  (∀ s : State, exec .stsClear s = .next { answered 0x0000 s with stsWord := 0x0000, stsFill := .zero }) ∧
  ∀ (rsv : BitVec 4) (data : Byte) (s : State), (rsv ≠ 0 ∨ data ≠ 0) →
    ∃ t, runWord (0x8#4 ++ rsv ++ data) s = .next t ∧ FaultEntered .reservedField s t

/-- R132: the first byte low, the second high, later ones ignored; a faulting word consumes nothing. -/
def Obligations.StsByteFillsLowThenHighThenIgnores : Prop :=
  (∀ d : Byte, decode (0x9000 ||| d.setWidth 16) = .ok (.stsByte d)) ∧
  (∀ (d : Byte) (s : State), s.stsFill = .zero →
    exec (.stsByte d) s = .next { answered 0x0000 s with stsWord := d.setWidth 16, stsFill := .one }) ∧
  (∀ (d : Byte) (s : State), s.stsFill = .one →
    exec (.stsByte d) s = .next { answered 0x0000 s with stsWord := d ++ s.stsWord.extractLsb' 0 8, stsFill := .two }) ∧
  (∀ (d : Byte) (s : State), s.stsFill = .two → exec (.stsByte d) s = .next (answered 0x0000 s)) ∧
  ∀ (rsv : BitVec 4) (d : Byte) (s : State), rsv ≠ 0 →
    ∃ t, runWord (0x9#4 ++ rsv ++ d) s = .next t ∧ FaultEntered .reservedField s t

/-- R133. -/
def Obligations.StsReadAnswersTheStatusWord : Prop :=
  decode 0xA000 = .ok .stsRead ∧
  (∀ s : State, s.stsFill = .two → exec .stsRead s = .next (answered s.stsWord s)) ∧
  (∀ s : State, s.stsFill ≠ .two → ∃ t, exec .stsRead s = .next t ∧ FaultEntered .shortResponse s t) ∧
  ∀ (rsv : BitVec 4) (data : Byte) (s : State), (rsv ≠ 0 ∨ data ≠ 0) →
    ∃ t, runWord (0xA#4 ++ rsv ++ data) s = .next t ∧ FaultEntered .reservedField s t

/-- R134: 0x0000 answers 1, 0x0001 answers 2, every other word 0. -/
def Obligations.StsOutcomeClassifiesTheStatusWord : Prop :=
  decode 0xB000 = .ok .stsOutcome ∧
  (∀ s : State, s.stsFill = .two →
    exec .stsOutcome s =
      .next (answered (if s.stsWord = 0x0000 then 0x0001 else if s.stsWord = 0x0001 then 0x0002 else 0x0000) s)) ∧
  (∀ s : State, s.stsFill ≠ .two → ∃ t, exec .stsOutcome s = .next t ∧ FaultEntered .shortResponse s t) ∧
  ∀ (rsv : BitVec 4) (data : Byte) (s : State), (rsv ≠ 0 ∨ data ≠ 0) →
    ∃ t, runWord (0xB#4 ++ rsv ++ data) s = .next t ∧ FaultEntered .reservedField s t

/-- R135. -/
def Obligations.StsFillAnswersTheCount : Prop :=
  decode 0xC000 = .ok .stsFill ∧
  (∀ s : State,
    exec .stsFill s =
      .next (answered (match s.stsFill with | .zero => 0x0000 | .one => 0x0001 | .two => 0x0002) s)) ∧
  ∀ (rsv : BitVec 4) (data : Byte) (s : State), (rsv ≠ 0 ∨ data ≠ 0) →
    ∃ t, runWord (0xC#4 ++ rsv ++ data) s = .next t ∧ FaultEntered .reservedField s t

/-- R150: the all-zero word is the only NOP. -/
def Obligations.NopChangesNothing : Prop :=
  decode 0x0000 = .ok .nop ∧
  (∀ s : State, exec .nop s = .next (answered 0x0000 s)) ∧
  ∀ (rsv : BitVec 4) (data : Byte) (s : State), (rsv ≠ 0 ∨ data ≠ 0) →
    ∃ t, runWord (0x0#4 ++ rsv ++ data) s = .next t ∧ FaultEntered .reservedField s t

/-- R151: the response is `err` with its hard-wired bits 15:9 zero in every state, and `err` itself where they are zero. -/
def Obligations.ErrReadAnswersTheErrorRegister : Prop :=
  decode 0xE000 = .ok .errRead ∧
  (∀ s : State, ∃ v : Word, exec .errRead s = .next (answered v s) ∧ v.extractLsb' 9 7 = 0 ∧
    v.extractLsb' 0 9 = s.err.extractLsb' 0 9) ∧
  (∀ s : State, s.err.extractLsb' 9 7 = 0 → exec .errRead s = .next (answered s.err s)) ∧
  ∀ (rsv : BitVec 4) (data : Byte) (s : State), (rsv ≠ 0 ∨ data ≠ 0) →
    ∃ t, runWord (0xE#4 ++ rsv ++ data) s = .next t ∧ FaultEntered .reservedField s t

/-- R152: also that an ERR.CLEAR that faults does not clear. -/
def Obligations.ErrClearClearsTheErrorRegister : Prop :=
  decode 0xF000 = .ok .errClear ∧
  (∀ s : State, exec .errClear s = .next { answered 0x0000 s with err := 0x0000 }) ∧
  ∀ (rsv : BitVec 4) (data : Byte) (s : State), (rsv ≠ 0 ∨ data ≠ 0) →
    ∃ t, runWord (0xF#4 ++ rsv ++ data) s = .next t ∧ FaultEntered .reservedField s t ∧ errCause t.err ≠ 0x00

/-! ### Sequences of commands -/

/-- R21: the accumulator after CRC.INIT, or after reset, and the bytes `m` is Checksum(m), and CRC.READ answers it as it is. -/
def Obligations.AccumulatorIsTheChecksumOfTheBytesFed : Prop :=
  ∀ m : List Byte,
    (∀ s : State, (issueAll (issue s 0x1000) (crcWords m)).crc = checksum m) ∧
    (issueAll State.reset (crcWords m)).crc = checksum m ∧
    ∀ s : State, ∃ t, exec .crcRead (issueAll (issue s 0x1000) (crcWords m)) = .next t ∧
      inFlight t = some { value := checksum m, fault := false }

/-- R22, R23: what the status parser holds after STS.CLEAR, or after reset, and the bytes `m`. -/
def Obligations.StatusParserHoldsTheFirstTwoBytes : Prop :=
  ∀ (s : State) (m : List Byte) (p : State), (p = issue s 0x8000 ∨ p = State.reset) →
    fillCount (issueAll p (stsWords m)).stsFill = min 2 m.length ∧
    (issueAll p (stsWords m)).stsWord =
      match m with
      | [] => 0x0000#16
      | [b0] => 0x00#8 ++ b0
      | b0 :: b1 :: _ => b1 ++ b0

/-- R130, R134: after STS.CLEAR and the bytes of a response, STS.OUTCOME answers what `decode_status` gives of the whole
response, or faults where it fails. -/
def Obligations.OutcomeIsDecodeStatusOfTheResponse : Prop :=
  ∀ (s : State) (m : List Byte),
    ∃ t, exec .stsOutcome (issueAll (issue s 0x8000) (stsWords m)) = .next t ∧
      inFlight t = match decodeStatus m with
        | some o => some { value := outcomeCode o, fault := false }
        | none => some { value := 0x0000, fault := true }

/-- R130: the classification and the outcome codes. -/
def Obligations.ClassificationIsTotalWithTheStatedCodes : Prop :=
  classify 0x0000 = .invalidCommand ∧ classify 0x0001 = .checksumMismatch ∧
  (∀ w : Word, w ≠ 0x0000 → w ≠ 0x0001 → classify w = .success) ∧
  outcomeCode .success = 0x0000 ∧ outcomeCode .invalidCommand = 0x0001 ∧ outcomeCode .checksumMismatch = 0x0002 ∧
  ∀ m : List Byte, decodeStatus m = none ↔ m.length < 2

/-! ### Faults -/

/-- R173: taking a fault changes `err` and the response and nothing else, and once its response is delivered the engine is
ready for the next command. -/
def Obligations.FaultEntryChangesOnlyErr : Prop :=
  ∀ (c : Cause) (s : State),
    raiseFault c s = { s with err := (raiseFault c s).err, port := .executing { value := 0x0000, fault := true } } ∧
    ∀ (r : Response) (e : Edge), e.rstN = true → cmdReady e (deliver r (raiseFault c s)) = true

/-- R174: RecordFault. -/
def Obligations.RecordFaultKeepsTheFirstCause : Prop :=
  ∀ (c : Cause) (s : State),
    (s.err.extractLsb' 0 8 = 0x00#8 →
      (raiseFault c s).err.extractLsb' 0 8 = causeCode c ∧ (raiseFault c s).err.getLsbD 8 = s.err.getLsbD 8) ∧
    (s.err.extractLsb' 0 8 ≠ 0x00#8 →
      (raiseFault c s).err.extractLsb' 0 8 = s.err.extractLsb' 0 8 ∧ (raiseFault c s).err.getLsbD 8 = true)

/-- R176: any number of faults from a clear `err` leave the first cause, with OVF set exactly when there was a second; while
a cause is recorded they set OVF and keep it; ERR.CLEAR ends that. -/
def Obligations.LaterFaultsOnlySetOverflow : Prop :=
  (∀ (s : State) (c : Cause) (cs : List Cause), s.err = 0x0000 →
    (((c :: cs).foldl (fun t k => raiseFault k t) s).err).extractLsb' 0 8 = causeCode c ∧
    (((c :: cs).foldl (fun t k => raiseFault k t) s).err).getLsbD 8 = !cs.isEmpty) ∧
  (∀ (s : State) (c : Cause) (cs : List Cause), s.err.extractLsb' 0 8 ≠ 0x00#8 →
    (((c :: cs).foldl (fun t k => raiseFault k t) s).err).extractLsb' 0 8 = s.err.extractLsb' 0 8 ∧
    (((c :: cs).foldl (fun t k => raiseFault k t) s).err).getLsbD 8 = true) ∧
  ∀ s : State, ∃ t, exec .errClear s = .next t ∧ t.err = 0x0000

/-- R171: which words raise which cause, in any state; every other word answers with `rsp_fault = 0`, so the outcomes
InvalidCommand and ChecksumMismatch are no faults; and a fault records no code above 0x03. -/
def Obligations.EveryFaultHasItsStatedCause : Prop :=
  causeCode .illegalCommand = 0x01 ∧ causeCode .reservedField = 0x02 ∧ causeCode .shortResponse = 0x03 ∧
  (∀ (c : Cause) (s : State), (s.err.extractLsb' 0 8).toNat ≤ 3 → ((raiseFault c s).err.extractLsb' 0 8).toNat ≤ 3) ∧
  ∀ (w : Word) (s : State),
    (decode w = .error .illegalCommand → ∃ t, runWord w s = .next t ∧ FaultEntered .illegalCommand s t) ∧
    (decode w = .error .reservedField → ∃ t, runWord w s = .next t ∧ FaultEntered .reservedField s t) ∧
    ((w = 0xA000 ∨ w = 0xB000) → s.stsFill ≠ .two →
      ∃ t, runWord w s = .next t ∧ FaultEntered .shortResponse s t) ∧
    (∀ i, decode w = .ok i → ((w ≠ 0xA000 ∧ w ≠ 0xB000) ∨ s.stsFill = .two) →
      ∃ t v, runWord w s = .next t ∧ inFlight t = some { value := v, fault := false })

/-- R172: when several causes apply, the first of IllegalCommand, ReservedField, ShortResponse is reported. -/
def Obligations.FirstCauseInPriorityOrderIsReported : Prop :=
  (∀ (op rsv : BitVec 4) (data : Byte) (s : State), (op = 0x6 ∨ op = 0x7 ∨ op = 0xD) → (rsv ≠ 0 ∨ data ≠ 0) →
    ∃ t, runWord (op ++ rsv ++ data) s = .next t ∧ FaultEntered .illegalCommand s t) ∧
  (∀ (op rsv : BitVec 4) (data : Byte) (s : State), (op = 0xA ∨ op = 0xB) → (rsv ≠ 0 ∨ data ≠ 0) → s.stsFill ≠ .two →
    ∃ t, runWord (op ++ rsv ++ data) s = .next t ∧ FaultEntered .reservedField s t) ∧
  ∀ (op : BitVec 4) (s : State), (op = 0xA ∨ op = 0xB) → s.stsFill ≠ .two →
    ∃ t, runWord (op ++ 0x0#4 ++ 0x00#8) s = .next t ∧ FaultEntered .shortResponse s t

/-- R175: whatever `err` holds, a word has the same effect on the CRC unit and the parser and, but for ERR.READ, the same
response; and it is never stopped. -/
def Obligations.SetErrBlocksNoCommand : Prop :=
  ∀ (w : Word) (s : State) (e : Word),
    ∃ t t', runWord w s = .next t ∧ runWord w { s with err := e } = .next t' ∧
      t'.crc = t.crc ∧ t'.stsWord = t.stsWord ∧ t'.stsFill = t.stsFill ∧ (w ≠ 0xE000 → inFlight t' = inFlight t)

/-- R71: every accepted word puts exactly one response in flight, delivers none itself, and a fault's value is 0x0000 and its
cause stands in `err`; the commands without a result answer 0x0000. -/
def Obligations.EveryWordHasOneResponse : Prop :=
  (∀ (w : Word) (s : State),
    ∃ t r, runWord w s = .next t ∧ t.port = .executing r ∧ t.delivered = s.delivered ∧
      (r.fault = true → r.value = 0x0000 ∧ ∃ c, CauseRecorded c s.err t.err)) ∧
  ∀ (i : Instr) (s : State), isReadCommand i = false →
    ∃ t, exec i s = .next t ∧ inFlight t = some { value := 0x0000, fault := false }

/-! ### What a command reads and writes -/

/-- R33, the writes, the frame of every command: each element changes only by the commands the access matrix lists for it, a
fault writes only `err`, and no command touches what the host has still to send, the word it holds or what was delivered. -/
def Obligations.CommandsWriteOnlyWhatTheMatrixLists : Prop :=
  ∀ (i : Instr) (s t : State), exec i s = .next t →
    (t.crc = s.crc ∨ i = .crcInit ∨ ∃ d, i = .crcByte d) ∧
    ((t.stsWord = s.stsWord ∧ t.stsFill = s.stsFill) ∨ i = .stsClear ∨ ((∃ d, i = .stsByte d) ∧ s.stsFill ≠ .two)) ∧
    (t.err = s.err ∨ i = .errClear ∨ ((i = .stsRead ∨ i = .stsOutcome) ∧ s.stsFill ≠ .two ∧ FaultEntered .shortResponse s t)) ∧
    t.held = s.held ∧ t.edges = s.edges ∧ t.delivered = s.delivered

/-- R33, the reads: what a command answers and writes depends only on the elements the access matrix lists for it. -/
def Obligations.CommandsReadOnlyWhatTheMatrixLists : Prop :=
  ∀ (i : Instr) (s s' t t' : State), exec i s = .next t → exec i s' = .next t' →
    ((i = .nop ∨ i = .crcInit ∨ i = .stsClear ∨ i = .errClear) → inFlight t = inFlight t') ∧
    (i = .crcInit → t.crc = t'.crc) ∧
    (i = .stsClear → t.stsWord = t'.stsWord ∧ t.stsFill = t'.stsFill) ∧
    (i = .errClear → t.err = t'.err) ∧
    (isCrcCommand i = true → s.crc = s'.crc → inFlight t = inFlight t' ∧ t.crc = t'.crc) ∧
    (isStsCommand i = true → s.stsWord = s'.stsWord → s.stsFill = s'.stsFill →
      inFlight t = inFlight t' ∧ t.stsWord = t'.stsWord ∧ t.stsFill = t'.stsFill) ∧
    (i = .stsFill → s.stsFill = s'.stsFill → inFlight t = inFlight t') ∧
    (i = .errRead → s.err = s'.err → inFlight t = inFlight t')

/-- R20: states that agree on the four elements give every word the same response and agree on them after it. -/
def Obligations.OnlyTheFourElementsDecideAResponse : Prop :=
  ∀ (w : Word) (s s' t t' : State), SameElements s s' → runWord w s = .next t → runWord w s' = .next t' →
    inFlight t = inFlight t' ∧ SameElements t t'

/-- R49: the read commands that do not fault change no element, and repeating one repeats its response; CRC.INIT, STS.CLEAR,
ERR.CLEAR and NOP twice is once; CRC.BYTE and STS.BYTE are not idempotent. -/
def Obligations.ReadsHaveNoSideEffectAndClearsAreIdempotent : Prop :=
  (∀ (i : Instr) (s t : State) (v : Word), isReadCommand i = true → exec i s = .next t →
    inFlight t = some { value := v, fault := false } →
    t = answered v s ∧ exec i (deliver { value := v, fault := false } t) = .next { t with delivered := { value := v, fault := false } :: t.delivered }) ∧
  (∀ (i : Instr) (s t : State), (i = .crcInit ∨ i = .stsClear ∨ i = .errClear ∨ i = .nop) → exec i s = .next t →
    exec i t = .next t) ∧
  (∃ (d : Byte) (s t : State), exec (.crcByte d) s = .next t ∧ exec (.crcByte d) t ≠ .next t) ∧
  ∃ (d : Byte) (s t : State), exec (.stsByte d) s = .next t ∧ exec (.stsByte d) t ≠ .next t

/-- R52: taking the words of the other stream out of any sequence changes nothing of a unit's state: the CRC unit's depends
only on the CRC words, the status parser's only on the status words; but the cause in `err` depends on the order of faults. -/
def Obligations.StreamsOfTheTwoUnitsDoNotInterfere : Prop :=
  (∀ (ws : List Word) (s : State),
    (issueAll s ws).crc =
      (issueAll s (ws.filter fun w => match decode w with | .ok i => isCrcCommand i | .error _ => false)).crc ∧
    (issueAll s ws).stsWord =
      (issueAll s (ws.filter fun w => match decode w with | .ok i => isStsCommand i | .error _ => false)).stsWord ∧
    (issueAll s ws).stsFill =
      (issueAll s (ws.filter fun w => match decode w with | .ok i => isStsCommand i | .error _ => false)).stsFill) ∧
  ∃ (w w' : Word) (s : State), errCause (issueAll s [w, w']).err ≠ errCause (issueAll s [w', w]).err

/-! ### Reset -/

/-- R30: the state after reset. -/
def Obligations.ResetStateIsAsStated : Prop :=
  State.reset.crc = 0x0000 ∧ State.reset.stsWord = 0x0000 ∧ State.reset.stsFill = .zero ∧ State.reset.err = 0x0000 ∧
  errCause State.reset.err = 0x00 ∧ errOvf State.reset.err = false ∧ inFlight State.reset = none ∧
  State.reset.crc = Config.crcInit

/-- R200: an edge with `rst_n = 0` gives every element its reset value from every state, whatever the other pins, with
`cmd_ready` and `rsp_valid` low. -/
def Obligations.ResetEdgeOverridesEverything : Prop :=
  ∀ (s : State) (e : Edge) (rest : List Edge), s.edges = e :: rest → e.rstN = false →
    (∃ t, step s = .next t ∧ SameElements t State.reset ∧ t.port = .idle ∧ t.edges = rest) ∧
    cmdReady e s = false ∧ rspOffered e s = none

/-- R201: reset drops the command in flight: its response is neither on the port at that edge nor delivered at the next. -/
def Obligations.ResetDropsTheCommandInFlight : Prop :=
  ∀ (s : State) (e e' : Edge) (rest : List Edge) (r : Response), s.edges = e :: e' :: rest → inFlight s = some r →
    e.rstN = false → e'.rstN = true → e'.cmdValid = false →
    ∃ t t', step s = .next t ∧ step t = .next t' ∧ rspOffered e s = none ∧ rspOffered e' t = none ∧
      inFlight t' = none ∧ t'.delivered = [] ∧ SameElements t' State.reset

/-- R202: at the first edge with `rst_n = 1` after a reset the engine is ready, and runs the word the host offers there (the
one it was offering during the reset, if it was: log entry 3). That the step runs the whole word is 10_state.md R31 as log entry 6
reads it. -/
def Obligations.EngineAcceptsAtTheFirstEdgeAfterReset : Prop :=
  ∀ (s : State) (e e' : Edge) (rest : List Edge), s.edges = e :: e' :: rest → e.rstN = false → e'.rstN = true →
    e'.cmdValid = true → (e.cmdValid = true → e'.cmdWord = e.cmdWord) →
    ∃ t, step s = .next t ∧ cmdReady e' t = true ∧ step t = runWord e'.cmdWord { State.reset with edges := rest }

/-- R204: for its unit reset is CRC.INIT, both giving `crc = 0x0000`, or STS.CLEAR; it also clears `err`, which neither of them
touches. -/
def Obligations.ResetAgreesWithTheInitialisingCommands : Prop :=
  ∀ (s : State) (e : Edge) (rest : List Edge), s.edges = e :: rest → e.rstN = false →
    ∃ r i c, step s = .next r ∧ exec .crcInit s = .next i ∧ exec .stsClear s = .next c ∧
      r.crc = 0x0000 ∧ i.crc = 0x0000 ∧
      (r.stsWord = 0x0000 ∧ r.stsFill = .zero) ∧ (c.stsWord = 0x0000 ∧ c.stsFill = .zero) ∧
      r.err = 0x0000 ∧ i.err = s.err ∧ c.err = s.err

/-- R206: before the first reset every command is refused; a reset edge ends that. -/
def Obligations.CommandBeforeResetIsRefused : Prop :=
  (∀ (s : State) (e : Edge) (rest : List Edge), s.edges = e :: rest → s.port = .unreset → e.rstN = true →
    e.cmdValid = true → step s = .refused .commandBeforeReset) ∧
  ∀ (s : State) (e : Edge) (rest : List Edge), s.edges = e :: rest → s.port = .unreset → e.rstN = false →
    ∃ t, step s = .next t ∧ t.port = .idle

/-! ### Steps and runs -/

/-- 10_state.md R31, 30_encoding.md R60: a step at an edge that offers the word of a command to a ready engine is `exec` of
that command, in the state without that edge and with no word held. That the whole command lands at this edge is log entry 6. -/
def Obligations.StepRunsTheDecodedCommand : Prop :=
  ∀ (s : State) (e : Edge) (rest : List Edge) (i : Instr), s.edges = e :: rest → e.rstN = true → e.cmdValid = true →
    s.port = .idle → (s.held = none ∨ s.held = some e.cmdWord) → decode e.cmdWord = .ok i →
    step s = exec i { s with edges := rest, held := none }

/-- 30_encoding.md R60, R70, 60_exceptions.md R173: at such an edge a word that is no command takes the fault entry. That its
cause is recorded at this edge is log entry 6. -/
def Obligations.StepTakesTheFaultOfAnIllegalWord : Prop :=
  ∀ (s : State) (e : Edge) (rest : List Edge) (d : DecodeFault), s.edges = e :: rest → e.rstN = true →
    e.cmdValid = true → s.port = .idle → (s.held = none ∨ s.held = some e.cmdWord) → decode e.cmdWord = .error d →
    ∃ t, step s = .next t ∧ FaultEntered (decodeCause d) { s with edges := rest, held := none } t

/-- R60: no command is accepted while one is in flight; a response is delivered exactly at an edge where it is valid and the
host is ready, once; until then the engine holds it, and once it is valid it stays valid. That the four elements stand still while
a command is in flight is 10_state.md R31 and 00_scope.md R17 as log entry 6 reads them. -/
def Obligations.HandshakeDeliversEachResponseOnce : Prop :=
  ∀ (s t : State) (e : Edge) (rest : List Edge) (r : Response), s.edges = e :: rest → e.rstN = true →
    inFlight s = some r → step s = .next t →
    cmdReady e s = false ∧
    (rspOffered e s = some r → e.rspReady = true →
      inFlight t = none ∧ t.delivered = r :: s.delivered ∧ ∀ e', e'.rstN = true → cmdReady e' t = true) ∧
    ((rspOffered e s = none ∨ e.rspReady = false) → inFlight t = some r ∧ t.delivered = s.delivered) ∧
    (rspOffered e s = some r → e.rspReady = false → ∀ e', e'.rstN = true → rspOffered e' t = some r) ∧
    SameElements s t

/-- R60, R206: a step has a meaning exactly when the host keeps its duties at that edge; else it is refused. -/
def Obligations.StepIsRefusedExactlyWhenTheHostBreaksItsDuty : Prop :=
  ∀ (s : State) (e : Edge) (rest : List Edge), s.edges = e :: rest →
    (HostKeeps e s → ∃ t, step s = .next t) ∧
    (¬ HostKeeps e s → step s = .refused .commandBeforeReset ∨ step s = .refused .brokenHandshake)

/-- R31, R51, R192, R220: whatever the gaps, the latencies and the stalls, and whether or not the host already offers and holds
the next word while a command is in flight, and keeps `rsp_ready` high when no response is due, the clocked machine does to its
state, and delivers, exactly what the words taken one by one as whole steps do. -/
def Obligations.ClockedRunIsTheCommandsOneByOneAtAnyPace : Prop :=
  ∀ (cmds : List (Pace × Word)) (s : State) (rest : List Edge), s.port = .idle →
    (s.held = none ∨ s.held = firstWord cmds) →
    Host.Core.run core (drive cmds).length { s with edges := drive cmds ++ rest } =
      .next (issueAll { s with edges := rest, held := none } (cmds.map Prod.snd))

/-- R22, R24, R71: every step keeps the legal values of `err`, of the status parser and of the responses. -/
def Obligations.EveryStepKeepsTheStateLegal : Prop :=
  ∀ s t : State, Legal s → step s = .next t → Legal t

/-- R30: the reset state is legal. -/
def Obligations.ResetStateIsLegal : Prop :=
  Legal State.reset

/-! ### Frames and assembler text -/

/-- R80 to R87: the layout of every frame, field by field. -/
def Obligations.FrameHasTheStatedLayout : Prop :=
  (∀ (cmd param : Word) (r : Rect),
    encodeFrame cmd param r =
      [hiByte cmd, loByte cmd, hiByte param, loByte param, 0x00, loByte r.x0, hiByte r.x0, loByte r.y0, hiByte r.y0,
       loByte r.x1, hiByte r.x1, loByte r.y1, hiByte r.y1,
       hiByte (checksum (frameHeader cmd param r)), loByte (checksum (frameHeader cmd param r))] ∧
    (frameHeader cmd param r).length = 13 ∧ (encodeFrame cmd param r).length = 15) ∧
  (∀ r : Rect, (redrawFrame r).take 4 = [0x00, 0x04, 0x00, 0x00]) ∧
  ∀ (mode : Fin 8) (r : Rect), (setModeFrame mode r).take 4 = [0x00, 0x05, 0x00, BitVec.ofNat 8 mode.val]

/-- R43, R85, R211: CRC.INIT, the 13 header bytes, CRC.EMITHI and CRC.EMITLO answer the last two bytes of the frame, in any
state, and the frame checks. -/
def Obligations.EmittedBytesCompleteTheFrame : Prop :=
  ∀ (s : State) (cmd param : Word) (r : Rect),
    ∃ hi lo : Byte,
      encodeFrame cmd param r = frameHeader cmd param r ++ [hi, lo] ∧
      ((issueAll (issue s 0x1000) (crcWords (frameHeader cmd param r) ++ [0x4000, 0x5000])).delivered.take 2) =
        [{ value := lo.setWidth 16, fault := false }, { value := hi.setWidth 16, fault := false }] ∧
      frameChecks (encodeFrame cmd param r) = true

/-- R73: the five expansions. That STS.SEQ of no bytes is nothing is log entry 5. -/
def Obligations.PseudoInstructionsExpandAsStated : Prop :=
  (∀ bs, expand (.crcSeq bs) = bs.map .crcByte) ∧
  (∀ h, expand (.crcFrame h) = .crcInit :: expand (.crcSeq h)) ∧
  expand .crcAppend = [.crcEmitHi, .crcEmitLo] ∧
  (∀ bs, expand (.stsSeq bs) = bs.map .stsByte) ∧
  ∀ b0 b1, expand (.stsParse b0 b1) = [.stsClear, .stsByte b0, .stsByte b1, .stsOutcome]

/-- R72: the text of every command assembles to its word, with a comment or without; a byte in decimal up to 255 is an operand,
a greater one is none; any other number of operands than the opcode takes is an assembly error, whatever they are, and so is a
hex operand of more than two digits; only `.word`, which takes any word unchecked, can spell a word that is no command. -/
def Obligations.AssembledTextIsTheCommand : Prop :=
  (∀ i : Instr, assembleLine (instrText i) = some [encode i]) ∧
  (∀ (i : Instr) (comment : List Char), assembleLine (instrText i ++ ';' :: comment) = some [encode i]) ∧
  (∀ (o : Opcode) (operands : List (List Char)), (∀ l ∈ operands, isOperandText l = true) →
    operands.length ≠ (if o.takesByte then 1 else 0) → assembleLine (lineText o.mnemonic.toList operands) = none) ∧
  (∀ (o : Opcode) (ds : List Char), o.takesByte = true → ds ≠ [] → ds.all Char.isDigit = true →
    assembleLine (lineText o.mnemonic.toList [ds]) =
      if decimalValue ds ≤ 255 then some [encode (o.command (BitVec.ofNat 8 (decimalValue ds)))] else none) ∧
  (∀ (o : Opcode) (hs : List Char), (hs.all fun c => (hexDigit c).isSome) = true → 2 < hs.length →
    assembleLine (lineText o.mnemonic.toList ['0' :: 'x' :: hs]) = none) ∧
  (∀ w : Word, assembleLine (lineText ".word".toList [wordText w]) = some [w]) ∧
  ∀ (m rest : List Char) (ws : List Word), m ≠ ".word".toList → assembleParts m rest = some ws →
    ∀ w ∈ ws, ∃ i, decode w = .ok i

/-! ### Runs of any host -/

/-- R31, R51, R60, R192, R200: under ANY host that keeps its duties, with resets anywhere, the clocked machine has a run, and its
state with the response in flight taken is what the resets and the accepted words, in their order, do as whole steps; only the
pins still to come and the word the host holds are its own. -/
def Obligations.AnyHostsRunIsItsEventsOneByOne : Prop :=
  ∀ (n : Nat) (s : State), HostKeepsFor n s →
    ∃ t, Host.Core.run core n s = .next t ∧ t.edges = s.edges.drop n ∧
      settle t = { (events n s).foldl happen (settle s) with edges := t.edges, held := t.held }
end

