-- ==== Sys2Proof/Laws/Assembler.lean ====
section
/-! SUPPORT. What the assembler makes of a line written with `lineText`, and of the operands it prints. -/

namespace Sys2Proof.Machine

/-! ### Cutting a text -/

theorem takeWhile_of_all {p : Char → Bool} {l : List Char} (h : l.all p = true) : l.takeWhile p = l := by
  induction l with
  | nil => rfl
  | cons c l ih => simp at h; simp [h.1]; exact h.2

theorem dropWhile_of_all {p : Char → Bool} {l : List Char} (h : l.all p = true) : l.dropWhile p = [] := by
  induction l with
  | nil => rfl
  | cons c l ih => simp at h; simp [h.1]; exact h.2

theorem takeWhile_append_stop {p : Char → Bool} {l r : List Char} {c : Char} (h : l.all p = true) (hc : p c = false) :
    (l ++ c :: r).takeWhile p = l := by
  induction l with
  | nil => simp [hc]
  | cons d l ih => simp at h; simp [h.1]; exact ih (by simpa using h.2)

theorem dropWhile_append_stop {p : Char → Bool} {l r : List Char} {c : Char} (h : l.all p = true) (hc : p c = false) :
    (l ++ c :: r).dropWhile p = c :: r := by
  induction l with
  | nil => simp [hc]
  | cons d l ih => simp at h; simp [h.1]; exact ih (by simpa using h.2)

/-- A text with no blank at either end. -/
def NoBlankEnds (l : List Char) : Prop :=
  (∃ c r, l = c :: r ∧ isBlank c = false) ∧ ∃ c r, l = r ++ [c] ∧ isBlank c = false

theorem NoBlankEnds.ne_nil {l : List Char} (h : NoBlankEnds l) : l ≠ [] := by
  obtain ⟨⟨c, r, e, _⟩, _⟩ := h
  rw [e]; simp

theorem NoBlankEnds.append {a b : List Char} (c : Char) (ha : NoBlankEnds a) (hb : NoBlankEnds b) :
    NoBlankEnds (a ++ c :: b) := by
  obtain ⟨⟨x, r, e, hx⟩, -⟩ := ha
  obtain ⟨-, y, q, e', hy⟩ := hb
  exact ⟨⟨x, r ++ c :: b, by simp [e], hx⟩, y, a ++ c :: q, by simp [e'], hy⟩

theorem trimBlanks_of_noBlankEnds {l : List Char} (h : NoBlankEnds l) : trimBlanks l = l := by
  obtain ⟨⟨c, r, e, hc⟩, c', r', e', hc'⟩ := h
  have hd : l.dropWhile isBlank = l := by rw [e]; simp [hc]
  rw [trimBlanks, hd, e']
  simp [hc']

theorem trimBlanks_space {l : List Char} (h : NoBlankEnds l) : trimBlanks (' ' :: l) = l := by
  have ht := trimBlanks_of_noBlankEnds h
  rw [trimBlanks] at ht ⊢
  rw [show (' ' :: l).dropWhile isBlank = l.dropWhile isBlank by simp [isBlank]]
  exact ht

/-! ### Operand texts -/

theorem isOperandText_all {l : List Char} (h : isOperandText l = true) :
    l.all (! isBlank ·) = true ∧ l.all (· != ',') = true ∧ l.all (· != ';') = true := by
  simp [isOperandText] at h
  simp only [List.all_eq_true]
  refine ⟨fun c hc => ?_, fun c hc => ?_, fun c hc => ?_⟩ <;> have := h.2 c hc <;> simp_all

theorem isOperandText_noBlankEnds {l : List Char} (h : isOperandText l = true) : NoBlankEnds l := by
  have ha := (isOperandText_all h).1
  simp only [List.all_eq_true, Bool.not_eq_true'] at ha
  have hn : l ≠ [] := by rintro rfl; cases h
  refine ⟨?_, l.getLast hn, l.dropLast, (List.dropLast_append_getLast hn).symm, ha _ (List.getLast_mem hn)⟩
  cases l with
  | nil => exact absurd rfl hn
  | cons c r => exact ⟨c, r, rfl, ha c (by simp)⟩

theorem joinOperands_noBlankEnds (ops : List (List Char)) (h : ∀ l ∈ ops, isOperandText l = true) (hn : ops ≠ []) :
    NoBlankEnds (joinOperands ops) := by
  induction ops with
  | nil => exact absurd rfl hn
  | cons a ops ih =>
    cases ops with
    | nil => exact isOperandText_noBlankEnds (h a (by simp))
    | cons b ops =>
      exact (isOperandText_noBlankEnds (h a (by simp))).append ',' (ih (fun l hl => h l (List.mem_cons_of_mem _ hl)) (by simp))

theorem joinOperands_all (p : Char → Bool) (ops : List (List Char)) (h : ∀ l ∈ ops, l.all p = true) (hc : p ',' = true) :
    (joinOperands ops).all p = true := by
  induction ops with
  | nil => rfl
  | cons a ops ih =>
    cases ops with
    | nil => exact h a (by simp)
    | cons b ops =>
      show (a ++ ',' :: joinOperands (b :: ops)).all p = true
      rw [List.all_append, List.all_cons, hc, h a (by simp), ih (fun l hl => h l (List.mem_cons_of_mem _ hl))]
      rfl

theorem splitAt_of_all (a : List Char) (h : a.all (· != ',') = true) : splitAt ',' a = [a] := by
  induction a with
  | nil => rfl
  | cons c a ih => simp at h; simp [splitAt, h.1, ih (by simpa using h.2)]

theorem splitAt_append (a r : List Char) (h : a.all (· != ',') = true) :
    splitAt ',' (a ++ ',' :: r) = a :: splitAt ',' r := by
  induction a with
  | nil => simp [splitAt]
  | cons c a ih => simp at h; simp [splitAt, h.1, ih (by simpa using h.2)]

theorem splitAt_joinOperands (ops : List (List Char)) (h : ∀ l ∈ ops, isOperandText l = true) (hn : ops ≠ []) :
    splitAt ',' (joinOperands ops) = ops := by
  induction ops with
  | nil => exact absurd rfl hn
  | cons a ops ih =>
    have ha := (isOperandText_all (h a (by simp))).2.1
    cases ops with
    | nil => exact splitAt_of_all _ ha
    | cons b ops =>
      show splitAt ',' (a ++ ',' :: joinOperands (b :: ops)) = _
      rw [splitAt_append _ _ ha, ih (fun l hl => h l (List.mem_cons_of_mem _ hl)) (by simp)]

/-- The operands read back are the operands written. -/
theorem operandTexts_joinOperands (ops : List (List Char)) (h : ∀ l ∈ ops, isOperandText l = true) :
    operandTexts (joinOperands ops) = ops := by
  by_cases hn : ops = []
  · subst hn; rfl
  · rw [operandTexts, if_neg (joinOperands_noBlankEnds ops h hn).ne_nil, splitAt_joinOperands ops h hn]
    conv_rhs => rw [← List.map_id ops]
    exact List.map_congr_left fun l hl => trimBlanks_of_noBlankEnds (isOperandText_noBlankEnds (h l hl))

/-! ### Lines -/

/-- A written line assembles as its mnemonic and operands do, with a comment after it or without (R72). -/
theorem assembleLine_of_stripComment (m : List Char) (ops : List (List Char)) (hm : isOperandText m = true)
    (h : ∀ l ∈ ops, isOperandText l = true) (l : List Char) (hl : l = lineText m ops ∨ ∃ c, l = lineText m ops ++ ';' :: c) :
    assembleLine l = assembleParts m (joinOperands ops) := by
  have hb := (isOperandText_all hm).1
  have hends : NoBlankEnds (lineText m ops) := by
    cases ops with
    | nil => exact isOperandText_noBlankEnds hm
    | cons a ops => exact (isOperandText_noBlankEnds hm).append ' ' (joinOperands_noBlankEnds _ h (by simp))
  have hsemi : (lineText m ops).all (· != ';') = true := by
    cases ops with
    | nil => exact (isOperandText_all hm).2.2
    | cons a ops =>
      rw [lineText, List.all_append, List.all_cons, (isOperandText_all hm).2.2,
        joinOperands_all _ _ (fun l hl => (isOperandText_all (h l hl)).2.2) rfl]
      rfl
  have hs : stripComment l = lineText m ops := by
    rcases hl with rfl | ⟨c, rfl⟩
    · exact takeWhile_of_all hsemi
    · exact takeWhile_append_stop hsemi (by decide)
  rw [assembleLine]
  simp only [hs, trimBlanks_of_noBlankEnds hends, if_neg hends.ne_nil]
  cases ops with
  | nil => rw [lineText, takeWhile_of_all hb, dropWhile_of_all hb]; rfl
  | cons a ops =>
    rw [lineText, takeWhile_append_stop hb (by decide), dropWhile_append_stop hb (by decide),
      trimBlanks_space (joinOperands_noBlankEnds _ h (by simp))]

/-- A mnemonic is one word, spells its opcode, and is not the raw directive. -/
theorem opcodeOf_mnemonic (o : Opcode) :
    isOperandText o.mnemonic.toList = true ∧ o.mnemonic.toList ≠ ".word".toList ∧ opcodeOf o.mnemonic.toList = some o := by
  cases o <;> decide +kernel

/-! ### Printed operands -/

theorem parseByte_byteText (b : Byte) : isOperandText (byteText b) = true ∧ parseByte (byteText b) = some b := by
  revert b; decide +kernel

theorem parseBytes_length (ops : List (List Char)) (bs : List Byte) (h : parseBytes ops = some bs) :
    bs.length = ops.length := by
  induction ops generalizing bs with
  | nil => simp [parseBytes] at h; subst h; rfl
  | cons a ops ih =>
    simp only [parseBytes] at h
    split at h <;> simp at h
    subst h; simp [ih _ ‹_›]

theorem decimalDigit_of_isDigit (c : Char) (h : c.isDigit = true) :
    decimalDigit c = some (c.toNat - '0'.toNat) := by
  simp [Char.isDigit] at h
  rw [decimalDigit, if_pos]
  exact ⟨by simpa [UInt32.le_iff_toNat_le] using h.1, by simpa [UInt32.le_iff_toNat_le] using h.2⟩

end Sys2Proof.Machine
end

