-- ==== Sys2Proof/Laws/Checksum.lean ====
section
/-! SUPPORT. The CRC unit's update is linear over GF(2) (40_crc.md R103, R104). -/

namespace Sys2Proof.Machine

theorem crcShift_xor (a b : Word) : crcShift (a ^^^ b) = crcShift a ^^^ crcShift b := by
  unfold crcShift
  rw [BitVec.getLsbD_xor, BitVec.shiftLeft_xor_distrib]
  rcases a.getLsbD 15 <;> rcases b.getLsbD 15 <;> simp
  · rw [BitVec.xor_assoc]
  · rw [BitVec.xor_assoc, BitVec.xor_assoc, BitVec.xor_comm _ Config.crcPoly]
  · rw [BitVec.xor_assoc (a <<< 1), ← BitVec.xor_assoc Config.crcPoly, BitVec.xor_comm Config.crcPoly, BitVec.xor_assoc (b <<< 1)]
    simp

theorem crcShifts_xor (n : Nat) (a b : Word) : crcShifts n (a ^^^ b) = crcShifts n a ^^^ crcShifts n b := by
  induction n generalizing a b with
  | zero => rfl
  | succ n ih => rw [crcShifts, crcShift_xor, ih]; rfl

/-- The update of a sum is the sum of the updates. -/
theorem crcStep_xor (a b : Word) (c d : Byte) :
    crcStep (a ^^^ b) (c ^^^ d) = crcStep a c ^^^ crcStep b d := by
  have h : zext16 (c ^^^ d) <<< 8 = (zext16 c <<< 8) ^^^ (zext16 d <<< 8) := by
    rw [zext16, BitVec.setWidth_xor, BitVec.shiftLeft_xor_distrib]; rfl
  unfold crcStep
  rw [h, ← crcShifts_xor]
  congr 1
  rw [BitVec.xor_assoc, BitVec.xor_assoc, ← BitVec.xor_assoc b, BitVec.xor_comm b, BitVec.xor_assoc (zext16 c <<< 8)]

@[simp] theorem crcFold_nil (c : Word) : crcFold c [] = c := rfl

@[simp] theorem crcFold_cons (c : Word) (d : Byte) (m : List Byte) : crcFold c (d :: m) = crcFold (crcStep c d) m := rfl

theorem crcFold_append (c : Word) (m n : List Byte) : crcFold c (m ++ n) = crcFold (crcFold c m) n :=
  List.foldl_append

/-- With CRC_XOROUT = 0x0000 the checksum is the accumulator (40_crc.md R101). -/
theorem checksum_eq_crcFold (m : List Byte) : checksum m = crcFold 0x0000 m := by
  simp [checksum, Config.crcInit, Config.crcXorOut]

end Sys2Proof.Machine
end

