-- ==== Sys2Proof/Laws/Decode.lean ====
section
/-! SUPPORT. The fields of a word and the word of some fields are each other's inverse, and what decoding fields gives. -/

namespace Sys2Proof

@[simp] theorem RawCommand.ofWord_toWord (r : RawCommand) : RawCommand.ofWord r.toWord = r := by
  obtain ⟨op, rsv, data⟩ := r
  simp only [RawCommand.ofWord, RawCommand.toWord, RawCommand.mk.injEq]
  refine ⟨?_, ?_, ?_⟩ <;> apply BitVec.eq_of_getLsbD_eq <;> intro i hi <;>
    simp only [BitVec.getLsbD_extractLsb', BitVec.getLsbD_append] <;> simp [hi]
  rw [if_neg (by omega), show 12 + i - 8 = 4 + i by omega]
  simp [BitVec.getLsbD_eq_getElem hi]

@[simp] theorem RawCommand.toWord_ofWord (w : Word) : (RawCommand.ofWord w).toWord = w := by
  simp only [RawCommand.ofWord, RawCommand.toWord]
  ext i hi
  simp only [BitVec.getElem_append, BitVec.getElem_extractLsb']
  split
  · simp [BitVec.getLsbD_eq_getElem hi]
  · split
    · rw [show 8 + (i - 8) = i by omega, BitVec.getLsbD_eq_getElem hi]
    · rw [show 12 + (i - 8 - 4) = i by omega, BitVec.getLsbD_eq_getElem hi]

/-- The fields of a word written as its three fields. -/
@[simp] theorem RawCommand.ofWord_append (op rsv : BitVec 4) (data : Byte) :
    RawCommand.ofWord (op ++ rsv ++ data) = { op := op, rsv := rsv, data := data } :=
  RawCommand.ofWord_toWord { op := op, rsv := rsv, data := data }

/-- Decoding a word written as its three fields. -/
theorem decode_append (op rsv : BitVec 4) (data : Byte) :
    decode (op ++ rsv ++ data) = RawCommand.decode { op := op, rsv := rsv, data := data } := by
  rw [decode, RawCommand.ofWord_append]

@[simp] theorem Opcode.ofBits_toBits (o : Opcode) : Opcode.ofBits o.toBits = some o := by
  cases o <;> rfl

/-- An opcode that is read is the one written. -/
theorem Opcode.toBits_of_ofBits (op : BitVec 4) (o : Opcode) (h : Opcode.ofBits op = some o) : o.toBits = op := by
  revert op o; decide

/-- Only the three reserved opcodes are read as none (30_encoding.md R65). -/
theorem Opcode.ofBits_eq_none_iff (op : BitVec 4) : Opcode.ofBits op = none ↔ op = 0x6 ∨ op = 0x7 ∨ op = 0xD := by
  revert op; decide

@[simp] theorem Opcode.command_opcode (o : Opcode) (d : Byte) : (o.command d).opcode = o := by
  cases o <;> rfl

/-- A command is the one of its opcode and its data. -/
@[simp] theorem Instr.command_opcode_data (i : Instr) : i.opcode.command i.data = i := by
  cases i <;> rfl

/-- The data of a command that takes no byte is zero. -/
theorem Instr.data_of_takesByte_false (i : Instr) (h : i.opcode.takesByte = false) : i.data = 0 := by
  cases i <;> first | rfl | cases h

end Sys2Proof
end

