-- ==== Sys2Proof/Laws/State.lean ====
section
/-! SUPPORT. What every named update does to every field of State, true by unfolding: later proofs cite these and unfold no
record update. -/

namespace Sys2Proof.Machine

/-! ### writeCrc -/

@[simp] theorem writeCrc_crc (v : Word) (s : State) : (writeCrc v s).crc = v := rfl

@[simp] theorem writeCrc_stsWord (v : Word) (s : State) : (writeCrc v s).stsWord = s.stsWord := rfl

@[simp] theorem writeCrc_stsFill (v : Word) (s : State) : (writeCrc v s).stsFill = s.stsFill := rfl

@[simp] theorem writeCrc_err (v : Word) (s : State) : (writeCrc v s).err = s.err := rfl

@[simp] theorem writeCrc_port (v : Word) (s : State) : (writeCrc v s).port = s.port := rfl

@[simp] theorem writeCrc_held (v : Word) (s : State) : (writeCrc v s).held = s.held := rfl

@[simp] theorem writeCrc_edges (v : Word) (s : State) : (writeCrc v s).edges = s.edges := rfl

@[simp] theorem writeCrc_delivered (v : Word) (s : State) : (writeCrc v s).delivered = s.delivered := rfl

/-! ### writeSts -/

@[simp] theorem writeSts_crc (w : Word) (f : Fill) (s : State) : (writeSts w f s).crc = s.crc := rfl

@[simp] theorem writeSts_stsWord (w : Word) (f : Fill) (s : State) : (writeSts w f s).stsWord = w := rfl

@[simp] theorem writeSts_stsFill (w : Word) (f : Fill) (s : State) : (writeSts w f s).stsFill = f := rfl

@[simp] theorem writeSts_err (w : Word) (f : Fill) (s : State) : (writeSts w f s).err = s.err := rfl

@[simp] theorem writeSts_port (w : Word) (f : Fill) (s : State) : (writeSts w f s).port = s.port := rfl

@[simp] theorem writeSts_held (w : Word) (f : Fill) (s : State) : (writeSts w f s).held = s.held := rfl

@[simp] theorem writeSts_edges (w : Word) (f : Fill) (s : State) : (writeSts w f s).edges = s.edges := rfl

@[simp] theorem writeSts_delivered (w : Word) (f : Fill) (s : State) : (writeSts w f s).delivered = s.delivered := rfl

/-! ### writeErr -/

@[simp] theorem writeErr_crc (e : Word) (s : State) : (writeErr e s).crc = s.crc := rfl

@[simp] theorem writeErr_stsWord (e : Word) (s : State) : (writeErr e s).stsWord = s.stsWord := rfl

@[simp] theorem writeErr_stsFill (e : Word) (s : State) : (writeErr e s).stsFill = s.stsFill := rfl

@[simp] theorem writeErr_err (e : Word) (s : State) : (writeErr e s).err = e &&& errMask := rfl

@[simp] theorem writeErr_port (e : Word) (s : State) : (writeErr e s).port = s.port := rfl

@[simp] theorem writeErr_held (e : Word) (s : State) : (writeErr e s).held = s.held := rfl

@[simp] theorem writeErr_edges (e : Word) (s : State) : (writeErr e s).edges = s.edges := rfl

@[simp] theorem writeErr_delivered (e : Word) (s : State) : (writeErr e s).delivered = s.delivered := rfl

/-! ### respond -/

@[simp] theorem respond_crc (v : Word) (s : State) : (respond v s).crc = s.crc := rfl

@[simp] theorem respond_stsWord (v : Word) (s : State) : (respond v s).stsWord = s.stsWord := rfl

@[simp] theorem respond_stsFill (v : Word) (s : State) : (respond v s).stsFill = s.stsFill := rfl

@[simp] theorem respond_err (v : Word) (s : State) : (respond v s).err = s.err := rfl

@[simp] theorem respond_port (v : Word) (s : State) : (respond v s).port = .executing { value := v, fault := false } := rfl

@[simp] theorem respond_held (v : Word) (s : State) : (respond v s).held = s.held := rfl

@[simp] theorem respond_edges (v : Word) (s : State) : (respond v s).edges = s.edges := rfl

@[simp] theorem respond_delivered (v : Word) (s : State) : (respond v s).delivered = s.delivered := rfl

/-! ### raiseFault -/

@[simp] theorem raiseFault_crc (c : Cause) (s : State) : (raiseFault c s).crc = s.crc := rfl

@[simp] theorem raiseFault_stsWord (c : Cause) (s : State) : (raiseFault c s).stsWord = s.stsWord := rfl

@[simp] theorem raiseFault_stsFill (c : Cause) (s : State) : (raiseFault c s).stsFill = s.stsFill := rfl

@[simp] theorem raiseFault_err (c : Cause) (s : State) : (raiseFault c s).err = recordFault c (readErr s) &&& errMask := rfl

@[simp] theorem raiseFault_port (c : Cause) (s : State) : (raiseFault c s).port = .executing { value := 0x0000, fault := true } := rfl

@[simp] theorem raiseFault_held (c : Cause) (s : State) : (raiseFault c s).held = s.held := rfl

@[simp] theorem raiseFault_edges (c : Cause) (s : State) : (raiseFault c s).edges = s.edges := rfl

@[simp] theorem raiseFault_delivered (c : Cause) (s : State) : (raiseFault c s).delivered = s.delivered := rfl

/-! ### deliver -/

@[simp] theorem deliver_crc (r : Response) (s : State) : (deliver r s).crc = s.crc := rfl

@[simp] theorem deliver_stsWord (r : Response) (s : State) : (deliver r s).stsWord = s.stsWord := rfl

@[simp] theorem deliver_stsFill (r : Response) (s : State) : (deliver r s).stsFill = s.stsFill := rfl

@[simp] theorem deliver_err (r : Response) (s : State) : (deliver r s).err = s.err := rfl

@[simp] theorem deliver_port (r : Response) (s : State) : (deliver r s).port = .idle := rfl

@[simp] theorem deliver_held (r : Response) (s : State) : (deliver r s).held = s.held := rfl

@[simp] theorem deliver_edges (r : Response) (s : State) : (deliver r s).edges = s.edges := rfl

@[simp] theorem deliver_delivered (r : Response) (s : State) : (deliver r s).delivered = r :: s.delivered := rfl

/-! ### acceptEdge -/

@[simp] theorem acceptEdge_crc (e : Edge) (s : State) : (acceptEdge e s).crc = s.crc := rfl

@[simp] theorem acceptEdge_stsWord (e : Edge) (s : State) : (acceptEdge e s).stsWord = s.stsWord := rfl

@[simp] theorem acceptEdge_stsFill (e : Edge) (s : State) : (acceptEdge e s).stsFill = s.stsFill := rfl

@[simp] theorem acceptEdge_err (e : Edge) (s : State) : (acceptEdge e s).err = s.err := rfl

@[simp] theorem acceptEdge_port (e : Edge) (s : State) : (acceptEdge e s).port = s.port := rfl

@[simp] theorem acceptEdge_held (e : Edge) (s : State) : (acceptEdge e s).held = heldAfter e s := rfl

@[simp] theorem acceptEdge_edges (e : Edge) (s : State) : (acceptEdge e s).edges = s.edges := rfl

@[simp] theorem acceptEdge_delivered (e : Edge) (s : State) : (acceptEdge e s).delivered = s.delivered := rfl

end Sys2Proof.Machine
end

