-- ==== Sys2Proof/Laws/Ops.lean ====
section
/-! SUPPORT. One lemma per shared operation that says once what it can do; the proofs cite these. -/

namespace Sys2Proof.Machine

/-! ### Bytes of a word -/

@[simp] theorem hiByte_joinBytes (h l : Byte) : hiByte (joinBytes h l) = h := by
  apply BitVec.eq_of_getLsbD_eq
  intro i hi
  simp only [hiByte, joinBytes, BitVec.getLsbD_extractLsb', BitVec.getLsbD_append]
  simp [hi]

@[simp] theorem loByte_joinBytes (h l : Byte) : loByte (joinBytes h l) = l := by
  apply BitVec.eq_of_getLsbD_eq
  intro i hi
  simp only [loByte, joinBytes, BitVec.getLsbD_extractLsb', BitVec.getLsbD_append]
  simp [hi]

@[simp] theorem joinBytes_hi_lo (v : Word) : joinBytes (hiByte v) (loByte v) = v := by
  unfold hiByte loByte joinBytes
  ext i hi
  simp only [BitVec.getElem_append, BitVec.getElem_extractLsb']
  split
  · simp [BitVec.getLsbD_eq_getElem hi]
  · rw [show 8 + (i - 8) = i by omega, BitVec.getLsbD_eq_getElem hi]

@[simp] theorem hiByte_zext16 (b : Byte) : hiByte (zext16 b) = 0 := by
  unfold hiByte zext16
  ext i hi
  simp

@[simp] theorem loByte_zext16 (b : Byte) : loByte (zext16 b) = b := by
  unfold loByte zext16
  apply BitVec.eq_of_getLsbD_eq
  intro i hi
  simp [hi]
  omega

/-! ### Ending a command -/

theorem respond_eq_answered (v : Word) (s : State) : respond v s = answered v s := rfl

/-- Recording a cause in a read `err` (60_exceptions.md R174, 10_state.md R24). -/
theorem recordFault_masked (c : Cause) (e : Word) :
    CauseRecorded c e (recordFault c (e &&& errMask) &&& errMask) := by
  have hcause : errCause (e &&& errMask) = errCause e := by
    unfold errCause loByte errMask
    ext i hi
    have : (511#16).getLsbD i = true := by
      have : ∀ j < 8, (511#16).getLsbD j = true := by decide
      exact this i hi
    simp [this]
  have hlow : ∀ x : Word, errCause (x &&& errMask) = errCause x := by
    intro x
    unfold errCause loByte errMask
    ext i hi
    have : (511#16).getLsbD i = true := by
      have : ∀ j < 8, (511#16).getLsbD j = true := by decide
      exact this i hi
    simp [this]
  have hovf : ∀ x : Word, errOvf (x &&& errMask) = errOvf x := by
    intro x
    simp [errOvf, errMask]
  refine ⟨fun h => ?_, fun h => ?_, ?_⟩
  · rw [recordFault, hcause, if_pos h, hlow, hovf]
    refine ⟨by simp [errCause, setErrCause], ?_⟩
    rw [← hovf e]
    rw [errOvf, setErrCause, joinBytes, hiByte, BitVec.getLsbD_append]
    simp [errOvf]
  · rw [recordFault, hcause, if_neg h, hlow, hovf]
    refine ⟨?_, by simp [errOvf, setErrOvf]⟩
    rw [← hcause]
    unfold errCause loByte setErrOvf
    ext i hi
    have : (256#16).getLsbD i = false := by
      have : ∀ j < 8, (256#16).getLsbD j = false := by decide
      exact this i hi
    simp [this]
  · ext i hi
    have : (511#16).getLsbD (9 + i) = false := by
      have : ∀ j < 7, (511#16).getLsbD (9 + j) = false := by decide
      exact this i hi
    simp [errMask, this]

/-- Everything taking a fault does (60_exceptions.md R173). -/
theorem raiseFault_entered (c : Cause) (s : State) : FaultEntered c s (raiseFault c s) :=
  ⟨recordFault_masked c s.err, rfl⟩

/-- What consuming a response byte can do (41_status.md R132). -/
theorem consumeByte_cases (d : Byte) (s : State) :
    (s.stsFill = .zero ∧ consumeByte d s = writeSts (zext16 d) .one s) ∨
    (s.stsFill = .one ∧ consumeByte d s = writeSts (joinBytes d (loByte s.stsWord)) .two s) ∨
    (s.stsFill = .two ∧ consumeByte d s = s) := by
  rcases h : s.stsFill <;> simp [consumeByte, readStsFill, readStsWord, h]

/-- What a command that needs both response bytes can do (41_status.md R133, R134). -/
theorem respondIfFilled_cases (v : Word) (s : State) :
    (s.stsFill = .two ∧ respondIfFilled v s = respond v s) ∨
    (s.stsFill ≠ .two ∧ respondIfFilled v s = raiseFault .shortResponse s) := by
  rcases h : s.stsFill <;> simp [respondIfFilled, readStsFill, h]

end Sys2Proof.Machine
end

