-- ==== Sys2Proof/Laws/PerInstr.lean ====
section
/-! SUPPORT. Facts about every command as syntax, one lemma per constructor. -/

namespace Sys2Proof.Laws.WordFields

/-- The word of a command has the command's fields, and they pass the three checks of 30_encoding.md R65 to R67. -/
def Statement (i : Instr) : Prop :=
  RawCommand.ofWord (encode i) = i.fields ∧ i.fields.wellFormed = true

theorem nop : Statement .nop := ⟨RawCommand.ofWord_toWord _, rfl⟩
theorem crcInit : Statement .crcInit := ⟨RawCommand.ofWord_toWord _, rfl⟩
theorem crcByte (d : Byte) : Statement (.crcByte d) := ⟨RawCommand.ofWord_toWord _, rfl⟩
theorem crcRead : Statement .crcRead := ⟨RawCommand.ofWord_toWord _, rfl⟩
theorem crcEmitHi : Statement .crcEmitHi := ⟨RawCommand.ofWord_toWord _, rfl⟩
theorem crcEmitLo : Statement .crcEmitLo := ⟨RawCommand.ofWord_toWord _, rfl⟩
theorem stsClear : Statement .stsClear := ⟨RawCommand.ofWord_toWord _, rfl⟩
theorem stsByte (d : Byte) : Statement (.stsByte d) := ⟨RawCommand.ofWord_toWord _, rfl⟩
theorem stsRead : Statement .stsRead := ⟨RawCommand.ofWord_toWord _, rfl⟩
theorem stsOutcome : Statement .stsOutcome := ⟨RawCommand.ofWord_toWord _, rfl⟩
theorem stsFill : Statement .stsFill := ⟨RawCommand.ofWord_toWord _, rfl⟩
theorem errRead : Statement .errRead := ⟨RawCommand.ofWord_toWord _, rfl⟩
theorem errClear : Statement .errClear := ⟨RawCommand.ofWord_toWord _, rfl⟩

end Sys2Proof.Laws.WordFields
end

