-- ==== Sys2Proof/Laws/Step.lean ====
section
/-! SUPPORT. Everything one step can do, said once. -/

namespace Sys2Proof.Machine

/-! ### exec, one equation per command -/

theorem exec_nop (s : State) : exec .nop s = .next (respond 0x0000 s) := rfl
theorem exec_crcInit (s : State) : exec .crcInit s = .next (respond 0x0000 (writeCrc 0x0000 s)) := rfl
theorem exec_crcByte (d : Byte) (s : State) :
    exec (.crcByte d) s = .next (respond 0x0000 (writeCrc (crcStep s.crc d) s)) := rfl
theorem exec_crcRead (s : State) : exec .crcRead s = .next (respond s.crc s) := rfl
theorem exec_crcEmitHi (s : State) : exec .crcEmitHi s = .next (respond (zext16 (hiByte s.crc)) s) := rfl
theorem exec_crcEmitLo (s : State) : exec .crcEmitLo s = .next (respond (zext16 (loByte s.crc)) s) := rfl
theorem exec_stsClear (s : State) : exec .stsClear s = .next (respond 0x0000 (writeSts 0x0000 .zero s)) := rfl
theorem exec_stsByte (d : Byte) (s : State) : exec (.stsByte d) s = .next (respond 0x0000 (consumeByte d s)) := rfl
theorem exec_stsRead (s : State) : exec .stsRead s = .next (respondIfFilled s.stsWord s) := rfl
theorem exec_stsOutcome (s : State) :
    exec .stsOutcome s = .next (respondIfFilled (outcomeCode (classify s.stsWord)) s) := rfl
theorem exec_stsFill (s : State) : exec .stsFill s = .next (respond (fillWord s.stsFill) s) := rfl
theorem exec_errRead (s : State) : exec .errRead s = .next (respond (readErr s) s) := rfl
theorem exec_errClear (s : State) : exec .errClear s = .next (respond 0x0000 (writeErr 0x0000 s)) := rfl

/-! ### runWord -/

theorem runWord_of_ok (w : Word) (i : Instr) (s : State) (h : decode w = .ok i) : runWord w s = exec i s := by
  rw [runWord, h]

theorem runWord_of_error (w : Word) (d : DecodeFault) (s : State) (h : decode w = .error d) :
    runWord w s = .next (raiseFault (decodeCause d) s) := by
  rw [runWord, h]

/-! ### step -/

/-- Everything a step that answers a next state can be: nothing scheduled, a reset, an accepted word, or a quiet edge. -/
theorem step_cases (s t : State) (h : step s = .next t) :
    (s.edges = [] ∧ t = s) ∨
    ∃ e rest, s.edges = e :: rest ∧
      ((edgeKind e { s with edges := rest } = .reset ∧ t = resetEdge e { s with edges := rest }) ∨
       (∃ w, edgeKind e { s with edges := rest } = .accept w ∧
         runWord w (acceptEdge e { s with edges := rest }) = .next t) ∨
       (edgeKind e { s with edges := rest } = .quiet ∧ t = quietEdge e { s with edges := rest })) := by
  unfold step at h
  split at h
  · next hs => cases h; exact .inl ⟨hs, rfl⟩
  · next e rest hs =>
    refine .inr ⟨e, rest, hs, ?_⟩
    unfold runEdge at h
    split at h
    · next hk => cases h; exact .inl ⟨hk, rfl⟩
    · cases h
    · next w hk => exact .inr (.inl ⟨w, hk, h⟩)
    · next hk => cases h; exact .inr (.inr ⟨hk, rfl⟩)

/-- When an edge is a reset. -/
theorem edgeKind_reset_iff (e : Edge) (s : State) : edgeKind e s = .reset ↔ e.rstN = false := by
  unfold edgeKind
  repeat' split
  all_goals simp_all

/-- When an edge accepts a word: it is the one offered, to an idle engine, and the host has kept its duty. -/
theorem edgeKind_accept (e : Edge) (s : State) (w : Word) (h : edgeKind e s = .accept w) :
    w = e.cmdWord ∧ e.rstN = true ∧ e.cmdValid = true ∧ s.port = .idle ∧ breaksHandshake e s = false := by
  unfold edgeKind at h
  repeat' split at h
  all_goals simp_all [cmdReady, inFlight]
  rcases hp : s.port <;> simp_all

/-- When an edge is quiet. -/
theorem edgeKind_quiet (e : Edge) (s : State) (h : edgeKind e s = .quiet) :
    e.rstN = true ∧ ((s.port = .unreset ∧ e.cmdValid = false) ∨
      (s.port ≠ .unreset ∧ breaksHandshake e s = false ∧ (e.cmdValid && cmdReady e s) = false)) := by
  unfold edgeKind at h
  repeat' split at h
  all_goals simp_all

/-- The host keeps the word it must hold. -/
theorem breaksHandshake_eq_false_iff (e : Edge) (s : State) :
    breaksHandshake e s = false ↔ ∀ w, s.held = some w → e.cmdValid = true → e.cmdWord = w := by
  unfold breaksHandshake
  cases s.held <;> simp

/-! ### Whole steps -/

theorem settle_of_idle (s : State) (h : s.port = .idle) : settle s = s := by simp [settle, inFlight, h]

theorem settle_of_unreset (s : State) (h : s.port = .unreset) : settle s = s := by simp [settle, inFlight, h]

theorem settle_of_executing (s : State) (r : Response) (h : s.port = .executing r) : settle s = deliver r s := by
  simp [settle, inFlight, h]

theorem settle_of_offering (s : State) (r : Response) (h : s.port = .offering r) : settle s = deliver r s := by
  simp [settle, inFlight, h]

/-- Taking the response looks at no pin. -/
theorem settle_schedule (s : State) (es : List Edge) (h : Option Word) :
    settle { s with edges := es, held := h } = { settle s with edges := es, held := h } := by
  obtain ⟨_, _, _, _, p, _, _, _⟩ := s
  cases p <;> rfl

/-- A quiet edge changes only whether the response has been taken, and what the host holds. -/
theorem settle_quietEdge (e : Edge) (s : State) : settle (quietEdge e s) = { settle s with held := heldAfter e s } := by
  rcases hp : s.port with _ | _ | r | r <;> cases hr : e.rstN <;> cases hd : e.rspDue <;> cases hy : e.rspReady <;>
    simp [quietEdge, rspOffered, offer, settle, inFlight, deliver, *]

/-- Every word runs, leaves its response in flight and the pins alone, and does not look at them. -/
theorem runWord_schedule (w : Word) (s : State) :
    ∃ t r, runWord w s = .next t ∧ t.port = .executing r ∧ t.edges = s.edges ∧ t.held = s.held ∧
      ∀ es h, runWord w { s with edges := es, held := h } = .next { t with edges := es, held := h } := by
  obtain ⟨_, _, fill, _, _, _, _, _⟩ := s
  cases hd : decode w with
  | error e =>
    simp only [runWord_of_error _ _ _ hd]
    exact ⟨_, _, rfl, rfl, rfl, rfl, fun _ _ => rfl⟩
  | ok i =>
    simp only [runWord_of_ok _ _ _ hd]
    cases i <;> cases fill <;> exact ⟨_, _, rfl, rfl, rfl, rfl, fun _ _ => rfl⟩

theorem issue_of_next (s t : State) (w : Word) (h : runWord w s = .next t) : issue s w = settle t := by
  rw [issue, h]

/-- A command taken whole looks at no pin. -/
theorem issue_schedule (w : Word) (s : State) (es : List Edge) (h : Option Word) :
    issue { s with edges := es, held := h } w = { issue s w with edges := es, held := h } := by
  obtain ⟨t, _, hw, _, _, _, hf⟩ := runWord_schedule w s
  rw [issue_of_next _ _ _ hw, issue_of_next _ _ _ (hf es h), settle_schedule]

/-! ### Runs -/

/-- A run goes on after a step that answers a next state (any machine). -/
theorem run_succ (M : Host.Core) (k : Nat) (s t : M.State) (h : M.step s = .next t) :
    M.run (k + 1) s = M.run k t := by
  simp only [Host.Core.run, h]

theorem core_run_zero (s : State) : Host.Core.run core 0 s = .next s := rfl

theorem core_run_succ (k : Nat) (s t : State) (h : step s = .next t) :
    Host.Core.run core (k + 1) s = Host.Core.run core k t :=
  run_succ core k s t h

/-- A run of `m + n` steps whose first `m` end in `t` goes on from `t` (any machine). -/
theorem run_add (M : Host.Core) (m n : Nat) (s t : M.State) (h : M.run m s = .next t) :
    M.run (m + n) s = M.run n t := by
  induction m generalizing s with
  | zero => cases h; rw [Nat.zero_add]
  | succ m ih =>
    cases hs : M.step s with
    | next s' =>
      rw [run_succ M m s s' hs] at h
      rw [Nat.add_right_comm, run_succ M _ s s' hs]
      exact ih s' h
    | fault r => simp [Host.Core.run, hs] at h
    | refused r => simp [Host.Core.run, hs] at h

theorem core_run_add (m n : Nat) (s t : State) (h : Host.Core.run core m s = .next t) :
    Host.Core.run core (m + n) s = Host.Core.run core n t :=
  run_add core m n s t h

end Sys2Proof.Machine
end

