-- ==== Sys2Proof/Tests/Slice0.lean ====
section
/-! SUPPORT. Tests: expected values come from 95_test_vectors.md (the vector's id is named) or from the rule named; then one
witness per statement that has hypotheses. -/

namespace Sys2Proof.Tests

open Sys2Proof Sys2Proof.Machine

/-! ### The checks of WellFormed refuse an ill-formed term each -/

/-- R65. -/
theorem test_wellFormed_reserved_op : (RawCommand.mk 0x6 0x0 0x00).wellFormed = false ∧
    (RawCommand.mk 0x6 0x0 0x00).opDefined = false := by decide

/-- R66. -/
theorem test_wellFormed_rsv : (RawCommand.mk 0x2 0x3 0x01).wellFormed = false ∧
    (RawCommand.mk 0x2 0x3 0x01).rsvZero = false := by decide

/-- R67. -/
theorem test_wellFormed_data : (RawCommand.mk 0x0 0x0 0x01).wellFormed = false ∧
    (RawCommand.mk 0x0 0x0 0x01).dataAllowed = false := by decide

theorem test_wellFormed_byte : (RawCommand.mk 0x9 0x0 0xFF).wellFormed = true := by decide

/-! ### Decoding: the words of 30_encoding.md R64, bit by bit -/

theorem test_decode_nop : decode 0b0000000000000000 = .ok .nop := by decide
theorem test_decode_crcInit : decode 0b0001000000000000 = .ok .crcInit := by decide
theorem test_decode_crcByte : decode 0b0010000010100101 = .ok (.crcByte 0xA5) := by decide
theorem test_decode_crcRead : decode 0b0011000000000000 = .ok .crcRead := by decide
theorem test_decode_crcEmitHi : decode 0b0100000000000000 = .ok .crcEmitHi := by decide
theorem test_decode_crcEmitLo : decode 0b0101000000000000 = .ok .crcEmitLo := by decide
theorem test_decode_stsClear : decode 0b1000000000000000 = .ok .stsClear := by decide
theorem test_decode_stsByte : decode 0b1001000001011010 = .ok (.stsByte 0x5A) := by decide
theorem test_decode_stsRead : decode 0b1010000000000000 = .ok .stsRead := by decide
theorem test_decode_stsOutcome : decode 0b1011000000000000 = .ok .stsOutcome := by decide
theorem test_decode_stsFill : decode 0b1100000000000000 = .ok .stsFill := by decide
theorem test_decode_errRead : decode 0b1110000000000000 = .ok .errRead := by decide
theorem test_decode_errClear : decode 0b1111000000000000 = .ok .errClear := by decide

/-- 2.4: op is checked before rsv, rsv before the command's own condition. -/
theorem test_decode_faults : decode 0x7FFF = .error .illegalCommand ∧ decode 0xD0AB = .error .illegalCommand ∧
    decode 0x0001 = .error .reservedField ∧ decode 0x2301 = .error .reservedField ∧
    decode 0xFFFF = .error .reservedField := by decide

theorem test_decodeTableWord : decodeTableWord 16 0x90FF = some (.stsByte 0xFF) ∧ decodeTableWord 16 0x6000 = none := by
  decide

/-! ### One step on a small state -/

/-- The state of a vector's start columns. -/
def start (crc stsWord : Word) (fill : Fill) (err : Word) : State :=
  { State.reset with crc := crc, stsWord := stsWord, stsFill := fill, err := err }

/-- A vector's end columns and response, after one step that fetches the word. -/
def after (s : State) (w : Nat) : Option (Word × Word × Fill × Word × Option Response) :=
  match step (s.withFetchWord 16 w) with
  | .next t => some (t.crc, t.stsWord, t.stsFill, t.err, inFlight t)
  | .fault _ => none
  | .refused _ => none

theorem test_nop_V1 : after (start 0x1234 0x5500 .two 0) 0x0000 = some (0x1234, 0x5500, .two, 0, some ⟨0, false⟩) := by decide
theorem test_nop_V2 : after (start 0 0 .zero 0) 0x0001 = some (0, 0, .zero, 0x0002, some ⟨0, true⟩) := by decide
theorem test_crcInit_V4 : after (start 0x5295 0 .zero 0) 0x1000 = some (0, 0, .zero, 0, some ⟨0, false⟩) := by decide
theorem test_crcInit_V5 : after (start 0x5295 0 .zero 0) 0x1001 = some (0x5295, 0, .zero, 2, some ⟨0, true⟩) := by decide
theorem test_crcByte_V9 : after (start 0xFFFF 0 .zero 0) 0x2000 = some (0xE1F0, 0, .zero, 0, some ⟨0, false⟩) := by decide
theorem test_crcByte_V12 : after (start 0x1021 0 .zero 0) 0x2301 = some (0x1021, 0, .zero, 2, some ⟨0, true⟩) := by decide
theorem test_crcRead_V13 : after (start 0x5295 0 .zero 0) 0x3000 = some (0x5295, 0, .zero, 0, some ⟨0x5295, false⟩) := by
  decide
theorem test_crcEmitHi_V15 : after (start 0x5295 0 .zero 0) 0x4000 = some (0x5295, 0, .zero, 0, some ⟨0x52, false⟩) := by
  decide
theorem test_crcEmitLo_V16 : after (start 0x5295 0 .zero 0) 0x5000 = some (0x5295, 0, .zero, 0, some ⟨0x95, false⟩) := by
  decide
theorem test_stsClear_V19 : after (start 0 0x5500 .two 0) 0x8000 = some (0, 0, .zero, 0, some ⟨0, false⟩) := by decide
theorem test_stsByte_V21 : after (start 0 0x0034 .one 0) 0x9012 = some (0, 0x1234, .two, 0, some ⟨0, false⟩) := by decide
theorem test_stsByte_V22 : after (start 0 0x1234 .two 0) 0x9099 = some (0, 0x1234, .two, 0, some ⟨0, false⟩) := by decide
theorem test_stsRead_V25 : after (start 0 0xFFFF .two 0) 0xA000 = some (0, 0xFFFF, .two, 0, some ⟨0xFFFF, false⟩) := by
  decide
theorem test_stsRead_V26 : after (start 0 0x0034 .one 0) 0xA000 = some (0, 0x0034, .one, 3, some ⟨0, true⟩) := by decide
theorem test_stsOutcome_V30 : after (start 0 0x0100 .two 0) 0xB000 = some (0, 0x0100, .two, 0, some ⟨0, false⟩) := by decide
theorem test_stsOutcome_V37 : after (start 0 0 .zero 0x0001) 0xB000 = some (0, 0, .zero, 0x0101, some ⟨0, true⟩) := by decide
theorem test_stsFill_V39 : after (start 0 0x0012 .one 0) 0xC000 = some (0, 0x0012, .one, 0, some ⟨1, false⟩) := by decide
theorem test_errRead_V42 : after (start 0 0 .zero 0x0103) 0xE000 = some (0, 0, .zero, 0x0103, some ⟨0x0103, false⟩) := by
  decide
theorem test_errClear_V44 : after (start 0 0 .zero 0x0103) 0xF000 = some (0, 0, .zero, 0, some ⟨0, false⟩) := by decide
theorem test_errClear_V45 : after (start 0 0 .zero 0x0003) 0xF001 = some (0, 0, .zero, 0x0103, some ⟨0, true⟩) := by decide
theorem test_reserved_op_V49 : after (start 0 0 .zero 0x0002) 0xD0AB = some (0, 0, .zero, 0x0102, some ⟨0, true⟩) := by
  decide

/-! ### The pure functions -/

/-- U6, by both updates. -/
theorem test_crcStep_U6 : crcStep 0x31C3 0xC3 = 0x0C5D ∧ tableStep 0x31C3 0xC3 = 0x0C5D := by decide +kernel

/-- K7, K8. -/
theorem test_checksum_K7_K8 : checksum [0x12, 0x34] = 0x13C6 ∧ checksum [0xFF, 0xFF] = 0x1D0F := by decide +kernel

/-- F5: negative coordinates, the whole frame. -/
theorem test_frame_F5 : setModeFrame 7 ⟨0xFFFF, 0xFFFF, 0x8000, 0x7FFF⟩ =
    [0x00, 0x05, 0x00, 0x07, 0x00, 0xFF, 0xFF, 0xFF, 0xFF, 0x00, 0x80, 0xFF, 0x7F, 0x9A, 0xA8] := by decide +kernel

/-- 30_encoding.md R72, R73: comments, decimal and hex operands, the raw directive and a pseudo-instruction. -/
theorem test_assemble : assembleLine "STS.PARSE 0x01,0 ; parse".toList = some [0x8000, 0x9001, 0x9000, 0xB000] ∧
    assembleLine ".word 0x6123".toList = some [0x6123] := by decide +kernel

/-- R72: out of range, missing, one too many, lower case. -/
theorem test_assemble_errors : assembleLine "CRC.BYTE 256".toList = none ∧ assembleLine "STS.BYTE".toList = none ∧
    assembleLine "CRC.BYTE 0x01,0x02".toList = none ∧ assembleLine "NOP 1, 2".toList = none ∧
    assembleLine "nop".toList = none := by decide +kernel

/-! ### The port -/

/-- An edge with a command offered. -/
def commandEdge (w : Word) : Edge := offerEdge w

/-- An edge in reset. -/
def resetPin : Edge := { rstN := false, cmdValid := false, cmdWord := 0, rspReady := false, rspDue := false }

/-- R60: a due response that the host takes is delivered. -/
theorem test_deliver : (match step { State.reset with port := .executing ⟨7, false⟩, edges := [takeEdge] } with
    | .next t => (t.port, t.delivered)
    | .fault _ => (.unreset, [])
    | .refused _ => (.unreset, [])) = (.idle, [⟨7, false⟩]) := by decide

/-- R60: changing a word that is waiting is refused. -/
theorem test_broken_handshake :
    (match step { State.reset with port := .offering ⟨7, false⟩, held := some 1, edges := [commandEdge 2] } with
    | .next _ => none
    | .fault _ => none
    | .refused r => some r) = some .brokenHandshake := by decide

/-! ### Witnesses: for every statement with hypotheses, values that meet them, clause by clause -/

theorem witness_EncodeOfDecodeIsTheWord : decode 0x20FF = .ok (.crcByte 0xFF) := by decide

theorem witness_IllegalWordsRaiseTheirCause :
    ((0x6#4 = 0x6 ∨ 0x6#4 = 0x7 ∨ 0x6#4 = 0xD) ∧ (0x7#4 = 0x6 ∨ 0x7#4 = 0x7 ∨ 0x7#4 = 0xD) ∧
      (0xD#4 = 0x6 ∨ 0xD#4 = 0x7 ∨ 0xD#4 = 0xD)) ∧
    (0x0#4 ≠ 0x6 ∧ 0x0#4 ≠ 0x7 ∧ 0x0#4 ≠ 0xD ∧ 0x1#4 ≠ 0) ∧
    (0xF#4 ≠ 0x6 ∧ 0xF#4 ≠ 0x7 ∧ 0xF#4 ≠ 0xD ∧ 0xF#4 ≠ 0x2 ∧ 0xF#4 ≠ 0x9 ∧ 0x01#8 ≠ 0x00) := by decide

theorem witness_DecoderChecksInOrderWithTheStatedCounts :
    (0x5#4 ≠ 0x6 ∧ 0x5#4 ≠ 0x7 ∧ 0x5#4 ≠ 0xD ∧ 0xF#4 ≠ 0) ∧
    (0x8#4 ≠ 0x6 ∧ 0x8#4 ≠ 0x7 ∧ 0x8#4 ≠ 0xD ∧ 0x8#4 ≠ 0x2 ∧ 0x8#4 ≠ 0x9 ∧ 0xFF#8 ≠ 0x00) ∧
    (0x2#4 ≠ 0x6 ∧ 0x2#4 ≠ 0x7 ∧ 0x2#4 ≠ 0xD ∧ (0x2#4 = 0x2 ∨ 0x2#4 = 0x9 ∨ 0xFF#8 = 0x00)) ∧
    (0xE#4 ≠ 0x6 ∧ 0xE#4 ≠ 0x7 ∧ 0xE#4 ≠ 0xD ∧ (0xE#4 = 0x2 ∨ 0xE#4 = 0x9 ∨ 0x00#8 = 0x00)) := by decide

theorem witness_OpcodeTableRowsDecideTheCommand :
    OpcodeRow.mk .stsByte 0x9000 0xFF00 ∈ opcodeTable ∧ (OpcodeRow.mk .stsByte 0x9000 0xFF00).fits 0x90FF = true ∧
    ((∀ r ∈ opcodeTable, r.fits 0x6000 = false) ∧ ∀ r ∈ opcodeTable, r.fits 0x9100 = false) := by decide

theorem witness_ChecksumHasTheDerivedProperties : [0x01#8, 0x80#8].length = [0xFF#8, 0x00#8].length := by decide

theorem witness_ZeroResidueExactlyOnFramesThatCheck :
    ([0x00, 0x05, 0x00, 0x04, 0x00, 0x00, 0x00, 0x00, 0x00, 0xE8, 0x03, 0xE8, 0x03, 0x52, 0x95] : List Byte).length = 15 := by
  decide

/-- The reserved-field clause of every command that takes no byte (both ways), and of CRC.BYTE and STS.BYTE. -/
theorem witness_ReservedFieldClauses :
    (0x1#4 ≠ 0 ∨ 0x00#8 ≠ 0) ∧ (0x0#4 ≠ 0 ∨ 0x01#8 ≠ 0) ∧ 0x1#4 ≠ 0 ∧ 0xF#4 ≠ 0 := by decide

theorem witness_StsByteFillsLowThenHighThenIgnores :
    (start 0 0 .zero 0).stsFill = .zero ∧ (start 0 0x0034 .one 0).stsFill = .one ∧ (start 0 0x1234 .two 0).stsFill = .two := by
  decide

theorem witness_StsReadAnswersTheStatusWord :
    (start 0 0xFFFF .two 0).stsFill = .two ∧ (start 0 0 .zero 0).stsFill ≠ .two ∧ (start 0 0x0034 .one 0).stsFill ≠ .two := by
  decide

theorem witness_StsOutcomeClassifiesTheStatusWord :
    (start 0 0x0001 .two 0).stsFill = .two ∧ (start 0 0 .zero 0).stsFill ≠ .two ∧ (start 0 0x0001 .one 0).stsFill ≠ .two := by
  decide

theorem witness_ErrReadAnswersTheErrorRegister : (start 0 0 .zero 0x0103).err.extractLsb' 9 7 = 0 := by decide

theorem witness_StatusParserHoldsTheFirstTwoBytes :
    (issue (start 0 0x5500 .two 0) 0x8000 = issue (start 0 0x5500 .two 0) 0x8000 ∨
      issue (start 0 0x5500 .two 0) 0x8000 = State.reset) ∧
    (State.reset = issue (start 0 0x5500 .two 0) 0x8000 ∨ State.reset = State.reset) :=
  ⟨.inl rfl, .inr rfl⟩

theorem witness_ClassificationIsTotalWithTheStatedCodes : (0x0100#16 ≠ 0x0000 ∧ 0x0100#16 ≠ 0x0001) ∧
    (0x0002#16 ≠ 0x0000 ∧ 0x0002#16 ≠ 0x0001) := by decide

theorem witness_FaultEntryChangesOnlyErr : (commandEdge 0).rstN = true := rfl

theorem witness_RecordFaultKeepsTheFirstCause :
    (start 0 0 .zero 0x0000).err.extractLsb' 0 8 = 0x00#8 ∧ (start 0 0 .zero 0x0103).err.extractLsb' 0 8 ≠ 0x00#8 := by decide

theorem witness_LaterFaultsOnlySetOverflow :
    State.reset.err = 0x0000 ∧ (start 0 0 .zero 0x0003).err.extractLsb' 0 8 ≠ 0x00#8 := by decide

theorem witness_EveryFaultHasItsStatedCause :
    ((start 0 0 .zero 0x0103).err.extractLsb' 0 8).toNat ≤ 3 ∧
    decode 0x6000 = .error .illegalCommand ∧ decode 0x0F00 = .error .reservedField ∧
    ((0xA000#16 = 0xA000 ∨ 0xA000#16 = 0xB000) ∧ State.reset.stsFill ≠ .two) ∧
    (decode 0xB000 = .ok .stsOutcome ∧
      ((0xB000#16 ≠ 0xA000 ∧ 0xB000#16 ≠ 0xB000) ∨ (start 0 0 .two 0).stsFill = .two)) ∧
    (decode 0xC000 = .ok .stsFill ∧ ((0xC000#16 ≠ 0xA000 ∧ 0xC000#16 ≠ 0xB000) ∨ State.reset.stsFill = .two)) := by decide

theorem witness_FirstCauseInPriorityOrderIsReported :
    ((0x7#4 = 0x6 ∨ 0x7#4 = 0x7 ∨ 0x7#4 = 0xD) ∧ (0xF#4 ≠ 0 ∨ 0xFF#8 ≠ 0)) ∧
    ((0xA#4 = 0xA ∨ 0xA#4 = 0xB) ∧ (0x1#4 ≠ 0 ∨ 0x00#8 ≠ 0) ∧ State.reset.stsFill ≠ .two) ∧
    ((0xB#4 = 0xA ∨ 0xB#4 = 0xB) ∧ (start 0 0 .one 0).stsFill ≠ .two) := by decide

theorem witness_SetErrBlocksNoCommand : 0x3000#16 ≠ 0xE000 := by decide

theorem witness_EveryWordHasOneResponse : isReadCommand .nop = false ∧ isReadCommand (.stsByte 0xFF) = false := by decide

theorem witness_CommandsWriteOnlyWhatTheMatrixLists :
    ∃ t, exec .stsRead (start 0 0x0034 .one 0) = .next t := ⟨_, rfl⟩

/-- Two states that differ in the elements the command does not read, for each kind of command. -/
theorem witness_CommandsReadOnlyWhatTheMatrixLists :
    ((∃ t, exec .nop (start 1 2 .two 3) = .next t) ∧ ∃ t, exec .nop State.reset = .next t) ∧
    (isCrcCommand (.crcByte 0xFF) = true ∧ (start 1 2 .two 3).crc = (start 1 0 .zero 0).crc ∧
      (∃ t, exec (.crcByte 0xFF) (start 1 2 .two 3) = .next t) ∧ ∃ t, exec (.crcByte 0xFF) (start 1 0 .zero 0) = .next t) ∧
    (isStsCommand .stsOutcome = true ∧ (start 1 2 .two 3).stsWord = (start 0 2 .two 0).stsWord ∧
      (start 1 2 .two 3).stsFill = (start 0 2 .two 0).stsFill ∧
      (∃ t, exec .stsOutcome (start 1 2 .two 3) = .next t) ∧ ∃ t, exec .stsOutcome (start 0 2 .two 0) = .next t) ∧
    ((start 1 2 .two 3).err = (start 0 0 .zero 3).err ∧
      (∃ t, exec .errRead (start 1 2 .two 3) = .next t) ∧ ∃ t, exec .errRead (start 0 0 .zero 3) = .next t) :=
  ⟨⟨⟨_, rfl⟩, _, rfl⟩, ⟨rfl, rfl, ⟨_, rfl⟩, _, rfl⟩, ⟨rfl, rfl, rfl, ⟨_, rfl⟩, _, rfl⟩, rfl, ⟨_, rfl⟩, _, rfl⟩

theorem witness_OnlyTheFourElementsDecideAResponse :
    (SameElements State.reset { State.reset with held := some 1, delivered := [⟨7, false⟩] } ∧
      (∃ t, runWord 0x3000 State.reset = .next t)) ∧
      ∃ t, runWord 0x3000 { State.reset with held := some 1, delivered := [⟨7, false⟩] } = .next t :=
  ⟨⟨⟨rfl, rfl, rfl, rfl⟩, _, rfl⟩, _, rfl⟩

theorem witness_ReadsHaveNoSideEffectAndClearsAreIdempotent :
    (isReadCommand .stsOutcome = true ∧
      exec .stsOutcome (start 0 0x0001 .two 0) = .next (answered 0x0002 (start 0 0x0001 .two 0)) ∧
      inFlight (answered 0x0002 (start 0 0x0001 .two 0)) = some { value := 0x0002, fault := false }) ∧
    ∃ t, exec .stsClear (start 0 0x5500 .two 0) = .next t :=
  ⟨⟨rfl, rfl, rfl⟩, _, rfl⟩

/-- A state with a command in flight at a reset edge, then a quiet edge: the hypotheses of the statements about reset. -/
def inReset (e e' : Edge) : State :=
  { start 0x5295 0x5500 .two 0x0103 with port := .offering ⟨7, false⟩, edges := [e, e'] }

theorem witness_ResetEdgeOverridesEverything :
    (inReset resetPin (waitEdge false)).edges = [resetPin, waitEdge false] ∧ resetPin.rstN = false := ⟨rfl, rfl⟩

theorem witness_ResetDropsTheCommandInFlight :
    (inReset resetPin takeEdge).edges = [resetPin, takeEdge] ∧ inFlight (inReset resetPin takeEdge) = some ⟨7, false⟩ ∧
    resetPin.rstN = false ∧ takeEdge.rstN = true ∧ takeEdge.cmdValid = false := ⟨rfl, rfl, rfl, rfl, rfl⟩

theorem witness_EngineAcceptsAtTheFirstEdgeAfterReset :
    (inReset { resetPin with cmdValid := true, cmdWord := 0x20FF } (commandEdge 0x20FF)).edges =
      [{ resetPin with cmdValid := true, cmdWord := 0x20FF }, commandEdge 0x20FF] ∧
    resetPin.rstN = false ∧ (commandEdge 0x20FF).rstN = true ∧ (commandEdge 0x20FF).cmdValid = true ∧
    (commandEdge 0x20FF).cmdWord = ({ resetPin with cmdValid := true, cmdWord := 0x20FF } : Edge).cmdWord :=
  ⟨rfl, rfl, rfl, rfl, rfl⟩

theorem witness_ResetAgreesWithTheInitialisingCommands :
    (inReset resetPin takeEdge).edges = [resetPin, takeEdge] ∧ resetPin.rstN = false ∧
    (inReset resetPin takeEdge).crc ≠ 0x0000 ∧ (inReset resetPin takeEdge).stsWord ≠ 0x0000 ∧
    (inReset resetPin takeEdge).err ≠ 0x0000 := by decide

theorem witness_CommandBeforeResetIsRefused :
    ({ State.reset with port := .unreset, edges := [commandEdge 0, resetPin] } : State).edges = [commandEdge 0, resetPin] ∧
    ({ State.reset with port := .unreset, edges := [commandEdge 0, resetPin] } : State).port = .unreset ∧
    (commandEdge 0).rstN = true ∧ (commandEdge 0).cmdValid = true ∧ resetPin.rstN = false := ⟨rfl, rfl, rfl, rfl, rfl⟩

theorem witness_StepRunsTheDecodedCommand :
    ∃ s : State, s.edges = [commandEdge 0x2001] ∧ (commandEdge 0x2001).rstN = true ∧ (commandEdge 0x2001).cmdValid = true ∧
      s.port = .idle ∧ (s.held = none ∨ s.held = some (commandEdge 0x2001).cmdWord) ∧
      decode (commandEdge 0x2001).cmdWord = .ok (.crcByte 0x01) :=
  ⟨{ State.reset with held := some 0x2001, edges := [commandEdge 0x2001] }, rfl, rfl, rfl, rfl, .inr rfl, by decide⟩

theorem witness_StepTakesTheFaultOfAnIllegalWord :
    ∃ s : State, s.edges = [commandEdge 0x6000] ∧ (commandEdge 0x6000).rstN = true ∧ (commandEdge 0x6000).cmdValid = true ∧
      s.port = .idle ∧ (s.held = none ∨ s.held = some (commandEdge 0x6000).cmdWord) ∧
      decode (commandEdge 0x6000).cmdWord = .error .illegalCommand :=
  ⟨{ State.reset with edges := [commandEdge 0x6000] }, rfl, rfl, rfl, rfl, .inl rfl, by decide⟩

/-- A state with a response in flight that is not offered yet, and one edge. -/
def waiting (e : Edge) : State :=
  { State.reset with port := .executing ⟨7, false⟩, edges := [e] }

theorem witness_HandshakeDeliversEachResponseOnce :
    (inFlight (waiting takeEdge) = some ⟨7, false⟩ ∧ rspOffered takeEdge (waiting takeEdge) = some ⟨7, false⟩ ∧
      takeEdge.rspReady = true ∧ ∃ t, step (waiting takeEdge) = .next t) ∧
    (rspOffered (waitEdge false) (waiting (waitEdge false)) = none ∧ ∃ t, step (waiting (waitEdge false)) = .next t) ∧
    (rspOffered (waitEdge true) (waiting (waitEdge true)) = some ⟨7, false⟩ ∧ (waitEdge true).rspReady = false ∧
      ∃ t, step (waiting (waitEdge true)) = .next t) :=
  ⟨⟨rfl, rfl, rfl, _, rfl⟩, ⟨rfl, _, rfl⟩, rfl, rfl, _, rfl⟩

theorem witness_StepIsRefusedExactlyWhenTheHostBreaksItsDuty :
    HostKeeps (commandEdge 1) { State.reset with held := some 1, edges := [commandEdge 1] } ∧
    (¬ HostKeeps (commandEdge 2) { State.reset with held := some 1, edges := [commandEdge 2] }) ∧
    ¬ HostKeeps (commandEdge 2) { State.reset with port := .unreset, edges := [commandEdge 2] } :=
  ⟨fun _ => ⟨(by intro h; cases h), (by intro _ w h _; cases h; rfl)⟩,
    fun h => absurd ((h rfl).2 (by decide) 1 rfl rfl) (by decide),
    fun h => absurd ((h rfl).1 rfl) (by decide)⟩

/-- Two commands of a host that keeps `rsp_ready` high and offers the second while the first is in flight. -/
def eager : List (Pace × Word) :=
  [({ gap := [true], readyAtOffer := true, latency := [⟨true, true⟩], stall := [], offersAtTake := true }, 0x2001),
   ({ gap := [], readyAtOffer := true, latency := [⟨true, true⟩], stall := [false], offersAtTake := false }, 0x3000)]

theorem witness_ClockedRunIsTheCommandsOneByOneAtAnyPace :
    (State.reset.port = .idle ∧ State.reset.held = none) ∧
    ({ State.reset with held := some 0x2001 } : State).port = .idle ∧
    ({ State.reset with held := some 0x2001 } : State).held = firstWord eager := ⟨⟨rfl, rfl⟩, rfl, rfl⟩

/-- The pins of that host at the edge that takes the first response: the second word is already there. -/
theorem test_eager_host_offers_the_next_word :
    (drive eager)[2]? = some { rstN := true, cmdValid := true, cmdWord := 0x3000, rspReady := true, rspDue := false } ∧
    (drive eager)[3]? = some { rstN := true, cmdValid := true, cmdWord := 0x3000, rspReady := true, rspDue := true } := by decide

/-- A state that is legal in every part, with a second fault about to be recorded. -/
def legalState : State :=
  { start 0x5295 0x0034 .one 0x0103 with edges := [commandEdge 0xA000], delivered := [⟨0, true⟩, ⟨7, false⟩] }

theorem witness_EveryStepKeepsTheStateLegal : Legal legalState ∧ ∃ t, step legalState = .next t := by
  refine ⟨⟨by unfold ErrLegal; decide, by unfold StsLegal; decide, fun r h => ?_, fun r h => ?_⟩, _, rfl⟩
  · cases h
  · rcases List.mem_cons.1 h with rfl | h
    · exact fun _ => rfl
    · rcases List.mem_cons.1 h with rfl | h
      · exact fun h => nomatch h
      · cases h

theorem witness_AssembledTextIsTheCommand_operands :
    ((∀ l ∈ [byteText 0x01, byteText 0x02], isOperandText l = true) ∧
      [byteText 0x01, byteText 0x02].length ≠ (if Opcode.crcByte.takesByte then 1 else 0)) ∧
    ((∀ l ∈ [byteText 0x01], isOperandText l = true) ∧ [byteText 0x01].length ≠ (if Opcode.nop.takesByte then 1 else 0)) ∧
    ([] : List (List Char)).length ≠ (if Opcode.stsByte.takesByte then 1 else 0) := by decide +kernel

theorem witness_AssembledTextIsTheCommand_ranges :
    Opcode.stsByte.takesByte = true ∧
    (['2', '5', '5'].all Char.isDigit = true ∧ decimalValue ['2', '5', '5'] = 255) ∧
    (['2', '5', '6'].all Char.isDigit = true ∧ decimalValue ['2', '5', '6'] = 256) ∧
    ((['1', '0', '0'].all fun c => (hexDigit c).isSome) = true ∧ 2 < ['1', '0', '0'].length) := by decide +kernel

theorem witness_AssembledTextIsTheCommand_words :
    "STS.PARSE".toList ≠ ".word".toList ∧
    assembleParts "STS.PARSE".toList "1,0x00".toList = some [0x8000, 0x9001, 0x9000, 0xB000] := by decide +kernel

/-- A host in the middle of a run: a word held under back-pressure, the response taken, the word accepted, a reset. -/
def midRun : State :=
  { State.reset with
    port := .executing ⟨7, false⟩, held := some 0x2001,
    edges := [{ takeEdge with cmdValid := true, cmdWord := 0x2001 }, commandEdge 0x2001, resetPin] }

theorem witness_AnyHostsRunIsItsEventsOneByOne :
    HostKeepsFor 3 midRun ∧ events 3 midRun = [.command 0x2001, .reset] := by
  refine ⟨⟨fun e rest h => ?_, fun t h => ?_⟩, by decide⟩
  · cases h; exact fun _ => ⟨nofun, fun _ w h _ => by cases h; rfl⟩
  · cases h
    refine ⟨fun e rest h => ?_, fun t h => ?_⟩
    · cases h; exact fun _ => ⟨nofun, fun _ w h _ => by cases h; rfl⟩
    · cases h
      exact ⟨fun e rest h => by cases h; exact nofun, fun _ _ => trivial⟩

end Sys2Proof.Tests
end

/-! ## The state family (10_state.md)

How the words of a command, of a byte list and of the two clearing commands act on the elements, then the statements about
the accumulator, the status parser, what decides a response, and reset. -/

namespace Sys2Proof.Machine

/-! ### The word of a command, decoded and run -/

/-- Decoding reads back the command (30_encoding.md R70): its opcode is defined, its reserved field is zero, and its data is
zero where it takes no byte. -/
@[simp] theorem decode_encode (i : Instr) : decode (encode i) = .ok i := by
  have hfields : RawCommand.ofWord (encode i) = i.fields := RawCommand.ofWord_toWord _
  rw [decode, hfields]
  simpa [RawCommand.decode, Instr.fields] using i.data_of_takesByte_false

theorem runWord_encode (i : Instr) (s : State) : runWord (encode i) s = exec i s :=
  runWord_of_ok _ _ _ (decode_encode i)

@[simp] theorem inFlight_respond (v : Word) (s : State) :
    inFlight (respond v s) = some { value := v, fault := false } := rfl

@[simp] theorem inFlight_raiseFault (c : Cause) (s : State) :
    inFlight (raiseFault c s) = some { value := 0x0000, fault := true } := rfl

/-- Delivering overwrites the port that answering set. -/
theorem settle_respond (v : Word) (s : State) : settle (respond v s) = deliver { value := v, fault := false } s := rfl

/-- A command that answers `v` after its writes, taken whole. -/
theorem issue_encode_of_respond (i : Instr) (v : Word) (s t : State) (h : exec i s = .next (respond v t)) :
    issue s (encode i) = deliver { value := v, fault := false } t := by
  rw [issue_of_next _ _ _ ((runWord_encode i s).trans h), settle_respond]

theorem issue_crcInit (s : State) :
    issue s 0x1000 = deliver { value := 0x0000, fault := false } (writeCrc 0x0000 s) :=
  issue_encode_of_respond .crcInit _ _ _ (exec_crcInit s)

theorem issue_crcByte (d : Byte) (s : State) :
    issue s (encode (.crcByte d)) = deliver { value := 0x0000, fault := false } (writeCrc (crcStep s.crc d) s) :=
  issue_encode_of_respond _ _ _ _ (exec_crcByte d s)

theorem issue_stsClear (s : State) :
    issue s 0x8000 = deliver { value := 0x0000, fault := false } (writeSts 0x0000 .zero s) :=
  issue_encode_of_respond .stsClear _ _ _ (exec_stsClear s)

theorem issue_stsByte (d : Byte) (s : State) :
    issue s (encode (.stsByte d)) = deliver { value := 0x0000, fault := false } (consumeByte d s) :=
  issue_encode_of_respond _ _ _ _ (exec_stsByte d s)

/-! ### Byte lists -/

@[simp] theorem issueAll_crcWords_nil (s : State) : issueAll s (crcWords []) = s := rfl

theorem issueAll_crcWords_cons (d : Byte) (m : List Byte) (s : State) :
    issueAll s (crcWords (d :: m)) = issueAll (issue s (encode (.crcByte d))) (crcWords m) := rfl

@[simp] theorem issueAll_stsWords_nil (s : State) : issueAll s (stsWords []) = s := rfl

theorem issueAll_stsWords_cons (d : Byte) (m : List Byte) (s : State) :
    issueAll s (stsWords (d :: m)) = issueAll (issue s (encode (.stsByte d))) (stsWords m) := rfl

/-- Feeding bytes folds them into the accumulator (40_crc.md R111). -/
theorem crc_issueAll_crcWords (m : List Byte) (s : State) : (issueAll s (crcWords m)).crc = crcFold s.crc m := by
  induction m generalizing s with
  | nil => rfl
  | cons d m ih =>
    rw [issueAll_crcWords_cons, ih, issue_crcByte, deliver_crc, writeCrc_crc, crcFold_cons]

/-- From a zero accumulator the fold is the checksum (40_crc.md R101). -/
theorem crc_issueAll_crcWords_of_zero (m : List Byte) (s : State) (h : s.crc = 0x0000) :
    (issueAll s (crcWords m)).crc = checksum m := by
  rw [crc_issueAll_crcWords, h, checksum_eq_crcFold]

theorem crc_issueAll_crcInit_crcWords (m : List Byte) (s : State) :
    (issueAll (issue s 0x1000) (crcWords m)).crc = checksum m :=
  crc_issueAll_crcWords_of_zero m _ (by rw [issue_crcInit, deliver_crc, writeCrc_crc])

/-- Consuming a byte counts it, up to two (10_state.md R23). -/
theorem fillCount_consumeByte (d : Byte) (s : State) :
    fillCount (consumeByte d s).stsFill = min 2 (fillCount s.stsFill + 1) := by
  obtain ⟨hfill, heq⟩ | ⟨hfill, heq⟩ | ⟨hfill, heq⟩ := consumeByte_cases d s <;> simp [heq, hfill, fillCount]

/-- Feeding response bytes counts them, up to two. -/
theorem fillCount_issueAll_stsWords (m : List Byte) (s : State) :
    fillCount (issueAll s (stsWords m)).stsFill = min 2 (fillCount s.stsFill + m.length) := by
  induction m generalizing s with
  | nil =>
    have hle : fillCount s.stsFill ≤ 2 := by cases s.stsFill <;> decide
    rw [issueAll_stsWords_nil, List.length_nil, Nat.add_zero, Nat.min_eq_right hle]
  | cons d m ih =>
    rw [issueAll_stsWords_cons, ih, issue_stsByte, deliver_stsFill, fillCount_consumeByte, List.length_cons]
    omega

theorem consumeByte_of_zero (d : Byte) (s : State) (h : s.stsFill = .zero) :
    consumeByte d s = writeSts (zext16 d) .one s := by
  simpa [h] using consumeByte_cases d s

theorem consumeByte_of_one (d : Byte) (s : State) (h : s.stsFill = .one) :
    consumeByte d s = writeSts (joinBytes d (loByte s.stsWord)) .two s := by
  simpa [h] using consumeByte_cases d s

theorem consumeByte_of_two (d : Byte) (s : State) (h : s.stsFill = .two) : consumeByte d s = s := by
  simpa [h] using consumeByte_cases d s

/-- A full parser ignores what it is fed (41_status.md R132). -/
theorem stsWord_issueAll_stsWords_of_two (m : List Byte) (s : State) (h : s.stsFill = .two) :
    (issueAll s (stsWords m)).stsWord = s.stsWord := by
  induction m generalizing s with
  | nil => rfl
  | cons d m ih =>
    have hissue : issue s (encode (.stsByte d)) = deliver { value := 0x0000, fault := false } s := by
      rw [issue_stsByte, consumeByte_of_two d s h]
    rw [issueAll_stsWords_cons, hissue, ih (deliver _ s) h, deliver_stsWord]

/-- The bytes of a word whose high byte is zero (00_scope.md R12). -/
theorem zext16_eq_append (d : Byte) : zext16 d = 0x00#8 ++ d := by
  rw [← joinBytes_hi_lo (zext16 d), hiByte_zext16, loByte_zext16]
  rfl

/-- What the first two response bytes make of an empty parser (10_state.md R22): later ones are ignored. -/
theorem stsWord_issueAll_stsWords_of_zero (b0 b1 : Byte) (m : List Byte) (s : State) (h : s.stsFill = .zero) :
    (issueAll s (stsWords (b0 :: b1 :: m))).stsWord = joinBytes b1 b0 := by
  rw [issueAll_stsWords_cons, issue_stsByte, consumeByte_of_zero b0 s h]
  rw [issueAll_stsWords_cons, issue_stsByte, consumeByte_of_one _ _ rfl]
  rw [stsWord_issueAll_stsWords_of_two _ _ rfl]
  simp

/-! ### Agreement on the four elements -/

/-- The two states have the same response in flight and agree on the four elements. -/
def SameAnswer (t t' : State) : Prop :=
  inFlight t = inFlight t' ∧ SameElements t t'

section
variable {s s' : State}

theorem sameElements_writeCrc {v v' : Word} (h : SameElements s s') (hv : v = v') :
    SameElements (writeCrc v s) (writeCrc v' s') := by
  obtain ⟨-, hword, hfill, herr⟩ := h
  exact ⟨hv, hword, hfill, herr⟩

theorem sameElements_writeSts {w w' : Word} {f f' : Fill} (h : SameElements s s') (hw : w = w') (hf : f = f') :
    SameElements (writeSts w f s) (writeSts w' f' s') := by
  obtain ⟨hcrc, -, -, herr⟩ := h
  exact ⟨hcrc, hw, hf, herr⟩

theorem sameElements_writeErr {e e' : Word} (h : SameElements s s') (he : e = e') :
    SameElements (writeErr e s) (writeErr e' s') := by
  obtain ⟨hcrc, hword, hfill, -⟩ := h
  exact ⟨hcrc, hword, hfill, by rw [writeErr_err, writeErr_err, he]⟩

theorem readErr_eq_of_sameElements (h : SameElements s s') : readErr s = readErr s' := by
  obtain ⟨-, -, -, herr⟩ := h
  rw [readErr, readErr, herr]

theorem sameElements_consumeByte (d : Byte) (h : SameElements s s') :
    SameElements (consumeByte d s) (consumeByte d s') := by
  obtain ⟨-, hword, hfill, -⟩ := id h
  cases hs : s.stsFill with
  | zero =>
    rw [consumeByte_of_zero d s hs, consumeByte_of_zero d s' (hfill ▸ hs)]
    exact sameElements_writeSts h rfl rfl
  | one =>
    rw [consumeByte_of_one d s hs, consumeByte_of_one d s' (hfill ▸ hs)]
    exact sameElements_writeSts h (by rw [hword]) rfl
  | two =>
    rw [consumeByte_of_two d s hs, consumeByte_of_two d s' (hfill ▸ hs)]
    exact h

theorem sameAnswer_respond {v v' : Word} (h : SameElements s s') (hv : v = v') :
    SameAnswer (respond v s) (respond v' s') :=
  ⟨by rw [inFlight_respond, inFlight_respond, hv], h⟩

theorem sameAnswer_raiseFault (c : Cause) (h : SameElements s s') :
    SameAnswer (raiseFault c s) (raiseFault c s') := by
  have hrecord : recordFault c (readErr s) = recordFault c (readErr s') := by rw [readErr_eq_of_sameElements h]
  have hwrite := sameElements_writeErr h hrecord
  exact ⟨rfl, hwrite⟩

theorem sameAnswer_respondIfFilled {v v' : Word} (h : SameElements s s') (hv : v = v') :
    SameAnswer (respondIfFilled v s) (respondIfFilled v' s') := by
  obtain ⟨-, -, hfill, -⟩ := id h
  obtain ⟨htwo, heq⟩ | ⟨hshort, heq⟩ := respondIfFilled_cases v s <;>
    obtain ⟨htwo', heq'⟩ | ⟨hshort', heq'⟩ := respondIfFilled_cases v' s'
  · rw [heq, heq']
    exact sameAnswer_respond h hv
  · exact absurd (hfill ▸ htwo) hshort'
  · exact absurd (hfill.trans htwo') hshort
  · rw [heq, heq']
    exact sameAnswer_raiseFault .shortResponse h

/-- A command makes its response and its writes of the four elements alone. -/
theorem exec_sameAnswer (i : Instr) (h : SameElements s s') :
    ∃ t t', exec i s = .next t ∧ exec i s' = .next t' ∧ SameAnswer t t' := by
  obtain ⟨hcrc, hword, hfill, -⟩ := id h
  cases i with
  | nop => exact ⟨_, _, exec_nop s, exec_nop s', sameAnswer_respond h rfl⟩
  | crcInit =>
    exact ⟨_, _, exec_crcInit s, exec_crcInit s', sameAnswer_respond (sameElements_writeCrc h rfl) rfl⟩
  | crcByte d =>
    exact ⟨_, _, exec_crcByte d s, exec_crcByte d s',
      sameAnswer_respond (sameElements_writeCrc h (by rw [hcrc])) rfl⟩
  | crcRead => exact ⟨_, _, exec_crcRead s, exec_crcRead s', sameAnswer_respond h hcrc⟩
  | crcEmitHi => exact ⟨_, _, exec_crcEmitHi s, exec_crcEmitHi s', sameAnswer_respond h (by rw [hcrc])⟩
  | crcEmitLo => exact ⟨_, _, exec_crcEmitLo s, exec_crcEmitLo s', sameAnswer_respond h (by rw [hcrc])⟩
  | stsClear =>
    exact ⟨_, _, exec_stsClear s, exec_stsClear s', sameAnswer_respond (sameElements_writeSts h rfl rfl) rfl⟩
  | stsByte d =>
    exact ⟨_, _, exec_stsByte d s, exec_stsByte d s', sameAnswer_respond (sameElements_consumeByte d h) rfl⟩
  | stsRead => exact ⟨_, _, exec_stsRead s, exec_stsRead s', sameAnswer_respondIfFilled h hword⟩
  | stsOutcome =>
    exact ⟨_, _, exec_stsOutcome s, exec_stsOutcome s', sameAnswer_respondIfFilled h (by rw [hword])⟩
  | stsFill => exact ⟨_, _, exec_stsFill s, exec_stsFill s', sameAnswer_respond h (by rw [hfill])⟩
  | errRead =>
    exact ⟨_, _, exec_errRead s, exec_errRead s', sameAnswer_respond h (readErr_eq_of_sameElements h)⟩
  | errClear =>
    exact ⟨_, _, exec_errClear s, exec_errClear s', sameAnswer_respond (sameElements_writeErr h rfl) rfl⟩

/-- So does every word, legal or not (60_exceptions.md R173). -/
theorem runWord_sameAnswer (w : Word) (h : SameElements s s') :
    ∃ t t', runWord w s = .next t ∧ runWord w s' = .next t' ∧ SameAnswer t t' := by
  cases hw : decode w with
  | ok i =>
    rw [runWord_of_ok w i s hw, runWord_of_ok w i s' hw]
    exact exec_sameAnswer i h
  | error d =>
    exact ⟨_, _, runWord_of_error w d s hw, runWord_of_error w d s' hw, sameAnswer_raiseFault (decodeCause d) h⟩

end

/-! ### The statements -/

/-- Settles O27: the fold over the bytes, from the zero that CRC.INIT and reset both leave. -/
theorem accumulatorIsTheChecksumOfTheBytesFed : Obligations.AccumulatorIsTheChecksumOfTheBytesFed := by
  intro m
  refine ⟨crc_issueAll_crcInit_crcWords m, crc_issueAll_crcWords_of_zero m State.reset rfl, fun s => ?_⟩
  refine ⟨_, exec_crcRead _, ?_⟩
  rw [inFlight_respond, crc_issueAll_crcInit_crcWords]

/-- Settles O28: STS.CLEAR and reset both leave an empty parser, and it takes the first two bytes. -/
theorem statusParserHoldsTheFirstTwoBytes : Obligations.StatusParserHoldsTheFirstTwoBytes := by
  intro s m p hp
  have hempty : p.stsWord = 0x0000 ∧ p.stsFill = .zero := by
    obtain rfl | rfl := hp
    · rw [issue_stsClear]
      exact ⟨rfl, rfl⟩
    · exact ⟨rfl, rfl⟩
  obtain ⟨hword, hfill⟩ := hempty
  constructor
  · rw [fillCount_issueAll_stsWords, hfill, fillCount, Nat.zero_add]
  · match m with
    | [] => exact hword
    | [b0] =>
      rw [issueAll_stsWords_cons, issueAll_stsWords_nil, issue_stsByte, consumeByte_of_zero b0 p hfill, deliver_stsWord,
        writeSts_stsWord]
      exact zext16_eq_append b0
    | b0 :: b1 :: m => exact stsWord_issueAll_stsWords_of_zero b0 b1 m p hfill

/-- Settles O40: two states that agree on the four elements answer every word alike. -/
theorem onlyTheFourElementsDecideAResponse : Obligations.OnlyTheFourElementsDecideAResponse := by
  intro w s s' t t' h ht ht'
  obtain ⟨u, u', hu, hu', hsame⟩ := runWord_sameAnswer w h
  obtain rfl : u = t := Host.Outcome.next.inj (hu.symm.trans ht)
  obtain rfl : u' = t' := Host.Outcome.next.inj (hu'.symm.trans ht')
  exact hsame

/-- Settles O43: each field of the reset state is as written (10_state.md R30). -/
theorem resetStateIsAsStated : Obligations.ResetStateIsAsStated :=
  ⟨rfl, rfl, rfl, rfl, by decide, by decide, rfl, rfl⟩

end Sys2Proof.Machine


/-! ## The memory family (20_memory.md)

The CRC unit and the status parser are each a machine of its own, so the other stream's words can be taken out of a run
(R52); a read command writes no element, so it can be repeated (R49). -/

namespace Sys2Proof.Machine

/-! ### What a response and a response byte leave of the two units -/

@[simp] theorem settle_crc (s : State) : (settle s).crc = s.crc := by
  obtain ⟨_, _, _, _, port, _, _, _⟩ := s
  cases port <;> rfl

/-- The status parser's state (10_state.md R22, R23). -/
def stsPair (s : State) : Word × Fill :=
  (s.stsWord, s.stsFill)

@[simp] theorem stsPair_settle (s : State) : stsPair (settle s) = stsPair s := by
  obtain ⟨_, _, _, _, port, _, _, _⟩ := s
  cases port <;> rfl

@[simp] theorem consumeByte_crc (d : Byte) (s : State) : (consumeByte d s).crc = s.crc := by
  obtain ⟨-, heq⟩ | ⟨-, heq⟩ | ⟨-, heq⟩ := consumeByte_cases d s <;> rw [heq] <;> rfl

@[simp] theorem respondIfFilled_crc (v : Word) (s : State) : (respondIfFilled v s).crc = s.crc := by
  obtain ⟨-, heq⟩ | ⟨-, heq⟩ := respondIfFilled_cases v s <;> rw [heq] <;> rfl

@[simp] theorem stsPair_respondIfFilled (v : Word) (s : State) : stsPair (respondIfFilled v s) = stsPair s := by
  obtain ⟨-, heq⟩ | ⟨-, heq⟩ := respondIfFilled_cases v s <;> rw [heq] <;> rfl

/-! ### Each unit as a machine of its own -/

/-- What a command makes of the accumulator (40_crc.md R110, R111). -/
def crcAfter : Instr → Word → Word
  | .crcInit, _ => 0x0000
  | .crcByte d, c => crcStep c d
  | _, c => c

/-- What a command makes of the status parser's state (41_status.md R131, R132). -/
def stsAfter : Instr → Word × Fill → Word × Fill
  | .stsClear, _ => (0x0000, .zero)
  | .stsByte d, (_, .zero) => (zext16 d, .one)
  | .stsByte d, (w, .one) => (joinBytes d (loByte w), .two)
  | _, p => p

theorem crcAfter_of_not_crc (i : Instr) (c : Word) (h : isCrcCommand i = false) : crcAfter i c = c := by
  cases i with
  | crcInit | crcByte => cases h
  | _ => rfl

theorem stsAfter_of_not_sts (i : Instr) (p : Word × Fill) (h : isStsCommand i = false) : stsAfter i p = p := by
  cases i with
  | stsClear | stsByte => cases h
  | _ => rfl

theorem stsPair_consumeByte (d : Byte) (s : State) : stsPair (consumeByte d s) = stsAfter (.stsByte d) (stsPair s) := by
  obtain ⟨hfill, heq⟩ | ⟨hfill, heq⟩ | ⟨hfill, heq⟩ := consumeByte_cases d s <;>
    simp [heq, stsPair, hfill, stsAfter]

/-- Every command acts on each unit as that unit's own machine does, whatever the other unit holds. -/
theorem exec_units (i : Instr) (s : State) :
    ∃ t, exec i s = .next t ∧ t.crc = crcAfter i s.crc ∧ stsPair t = stsAfter i (stsPair s) := by
  cases i with
  | stsByte d => exact ⟨_, exec_stsByte d s, consumeByte_crc d s, stsPair_consumeByte d s⟩
  | stsRead => exact ⟨_, exec_stsRead s, respondIfFilled_crc _ s, stsPair_respondIfFilled _ s⟩
  | stsOutcome => exact ⟨_, exec_stsOutcome s, respondIfFilled_crc _ s, stsPair_respondIfFilled _ s⟩
  | _ => exact ⟨_, rfl, rfl, rfl⟩

/-- The part `part` of the state is a machine of its own: a command changes it by `after`, and neither a fault nor the
delivery of a response touches it. -/
structure RunsAlone {α : Type} (part : State → α) (after : Instr → α → α) : Prop where
  exec : ∀ i s, ∃ t, exec i s = .next t ∧ part t = after i (part s)
  raiseFault : ∀ c s, part (raiseFault c s) = part s
  settle : ∀ s, part (settle s) = part s

theorem crc_runsAlone : RunsAlone State.crc crcAfter where
  exec i s := by
    obtain ⟨t, ht, hcrc, -⟩ := exec_units i s
    exact ⟨t, ht, hcrc⟩
  raiseFault := raiseFault_crc
  settle := settle_crc

theorem stsPair_runsAlone : RunsAlone stsPair stsAfter where
  exec i s := by
    obtain ⟨t, ht, -, hsts⟩ := exec_units i s
    exact ⟨t, ht, hsts⟩
  raiseFault _ _ := rfl
  settle := stsPair_settle

/-- A word's effect on a part that runs alone: its command's, or none for an illegal word (60_exceptions.md R173). -/
def wordAfter {α : Type} (after : Instr → α → α) (a : α) (w : Word) : α :=
  match decode w with
  | .ok i => after i a
  | .error _ => a

section
variable {α : Type} {part : State → α} {after : Instr → α → α}

theorem wordAfter_of_ok (w : Word) (i : Instr) (a : α) (h : decode w = .ok i) : wordAfter after a w = after i a := by
  rw [wordAfter, h]

theorem wordAfter_of_error (w : Word) (d : DecodeFault) (a : α) (h : decode w = .error d) : wordAfter after a w = a := by
  rw [wordAfter, h]

theorem RunsAlone.issue (h : RunsAlone part after) (s : State) (w : Word) :
    wordAfter after (part s) w = part (issue s w) := by
  cases hw : decode w with
  | ok i =>
    obtain ⟨t, ht, hpart⟩ := h.exec i s
    rw [wordAfter_of_ok w i _ hw, issue_of_next _ _ _ ((runWord_of_ok w i s hw).trans ht), h.settle, hpart]
  | error d =>
    rw [wordAfter_of_error w d _ hw, issue_of_next _ _ _ (runWord_of_error w d s hw), h.settle, h.raiseFault]

/-- A run's effect on such a part is the fold of its words' effects on it. -/
theorem RunsAlone.issueAll (h : RunsAlone part after) (ws : List Word) (s : State) :
    part (issueAll s ws) = ws.foldl (wordAfter after) (part s) :=
  (List.foldl_hom part h.issue).symm

/-- So the words whose command does nothing to the part can be taken out of the run. -/
theorem RunsAlone.issueAll_filter (h : RunsAlone part after) (keep : Word → Bool)
    (hskip : ∀ w i a, decode w = .ok i → keep w = false → after i a = a) (ws : List Word) (s : State) :
    part (Machine.issueAll s ws) = part (Machine.issueAll s (ws.filter keep)) := by
  have hstep : ∀ a w, wordAfter after a w = if keep w then wordAfter after a w else a := by
    intro a w
    cases hkeep : keep w with
    | true => rfl
    | false =>
      cases hw : decode w with
      | ok i => exact (wordAfter_of_ok w i a hw).trans (hskip w i a hw hkeep)
      | error d => exact wordAfter_of_error w d a hw
  rw [h.issueAll, h.issueAll, List.foldl_filter, ← funext₂ hstep]

end

/-! ### Read commands -/

/-- A read command answers and writes no element, or it is a status read of a part-filled parser (20_memory.md R49). -/
theorem exec_read_cases (i : Instr) (s : State) (h : isReadCommand i = true) :
    (∃ v, exec i s = .next (answered v s)) ∨ exec i s = .next (raiseFault .shortResponse s) := by
  have hfilled (v : Word) : (∃ u, respondIfFilled v s = answered u s) ∨
      respondIfFilled v s = raiseFault .shortResponse s :=
    (respondIfFilled_cases v s).imp (fun ⟨_, heq⟩ => ⟨v, heq⟩) (fun ⟨_, heq⟩ => heq)
  cases i with
  | crcRead => exact .inl ⟨_, exec_crcRead s⟩
  | crcEmitHi => exact .inl ⟨_, exec_crcEmitHi s⟩
  | crcEmitLo => exact .inl ⟨_, exec_crcEmitLo s⟩
  | stsRead => simpa [exec_stsRead] using hfilled s.stsWord
  | stsOutcome => simpa [exec_stsOutcome] using hfilled (outcomeCode (classify s.stsWord))
  | stsFill => exact .inl ⟨_, exec_stsFill s⟩
  | errRead => exact .inl ⟨_, exec_errRead s⟩
  | nop | crcInit | crcByte | stsClear | stsByte | errClear => cases h

/-- A read command that answers without a fault changes no element. -/
theorem read_eq_answered (i : Instr) (s t : State) (v : Word) (hread : isReadCommand i = true) (ht : exec i s = .next t)
    (hanswer : inFlight t = some { value := v, fault := false }) : t = answered v s := by
  obtain ⟨u, hu⟩ | hfault := exec_read_cases i s hread
  · obtain rfl : answered u s = t := Host.Outcome.next.inj (hu.symm.trans ht)
    obtain rfl : u = v := by simpa [answered, inFlight] using hanswer
    rfl
  · obtain rfl : raiseFault .shortResponse s = t := Host.Outcome.next.inj (hfault.symm.trans ht)
    simp at hanswer

/-- Issued again it answers the same, since it finds the elements it read. -/
theorem exec_read_again (i : Instr) (s : State) (v : Word) (hread : isReadCommand i = true)
    (ht : exec i s = .next (answered v s)) (r : Response) :
    exec i (deliver r (answered v s)) = .next (answered v (deliver r (answered v s))) := by
  have hsame : SameElements s (deliver r (answered v s)) := ⟨rfl, rfl, rfl, rfl⟩
  obtain ⟨u, u', hu, hu', hanswer, -⟩ := exec_sameAnswer i hsame
  obtain rfl : u = answered v s := Host.Outcome.next.inj (hu.symm.trans ht)
  rw [hu', read_eq_answered i _ u' v hread hu' hanswer.symm]

/-! ### Commands twice in a row -/

/-- CRC.INIT, STS.CLEAR, ERR.CLEAR and NOP overwrite what they write with constants (20_memory.md R49). -/
theorem exec_idempotent (i : Instr) (s t : State) (hi : i = .crcInit ∨ i = .stsClear ∨ i = .errClear ∨ i = .nop)
    (ht : exec i s = .next t) : exec i t = .next t := by
  obtain rfl | rfl | rfl | rfl := hi
  · obtain rfl := Host.Outcome.next.inj ((exec_crcInit s).symm.trans ht)
    rfl
  · obtain rfl := Host.Outcome.next.inj ((exec_stsClear s).symm.trans ht)
    rfl
  · obtain rfl := Host.Outcome.next.inj ((exec_errClear s).symm.trans ht)
    rfl
  · obtain rfl := Host.Outcome.next.inj ((exec_nop s).symm.trans ht)
    rfl

/-- From `crc = 0x0000` the byte 0x01 gives 0x1021, and a second one another value. -/
theorem exec_crcByte_not_idempotent :
    ∃ d s t, exec (.crcByte d) s = .next t ∧ exec (.crcByte d) t ≠ .next t := by
  refine ⟨0x01, State.reset, _, exec_crcByte _ _, fun h => ?_⟩
  have hcrc := congrArg State.crc (Host.Outcome.next.inj ((exec_crcByte _ _).symm.trans h))
  simp only [respond_crc, writeCrc_crc] at hcrc
  exact absurd hcrc (by decide +kernel)

/-- The first response byte fills an empty parser to 1, the second to 2. -/
theorem exec_stsByte_not_idempotent :
    ∃ d s t, exec (.stsByte d) s = .next t ∧ exec (.stsByte d) t ≠ .next t := by
  refine ⟨0x01, State.reset, _, exec_stsByte _ _, fun h => ?_⟩
  have hfill : Fill.two = Fill.one := congrArg State.stsFill (Host.Outcome.next.inj ((exec_stsByte _ _).symm.trans h))
  exact absurd hfill nofun

/-! ### The statements -/

/-- Settles O42: each unit runs alone, so the words that do nothing to it drop out; an illegal opcode and a reserved field
record whichever comes first. -/
theorem streamsOfTheTwoUnitsDoNotInterfere : Obligations.StreamsOfTheTwoUnitsDoNotInterfere := by
  refine ⟨fun ws s => ?_, 0x6000, 0x0001, State.reset, by decide⟩
  have hcrc := crc_runsAlone.issueAll_filter
    (fun w => match decode w with | .ok i => isCrcCommand i | .error _ => false)
    (fun w i c hw hkeep => crcAfter_of_not_crc i c (by simpa only [hw] using hkeep)) ws s
  have hsts := stsPair_runsAlone.issueAll_filter
    (fun w => match decode w with | .ok i => isStsCommand i | .error _ => false)
    (fun w i p hw hkeep => stsAfter_of_not_sts i p (by simpa only [hw] using hkeep)) ws s
  obtain ⟨hword, hfill⟩ := Prod.mk.inj hsts
  exact ⟨hcrc, hword, hfill⟩

/-- Settles O41: a read leaves the elements it read, the four commands write constants, and a byte moves its unit on. -/
theorem readsHaveNoSideEffectAndClearsAreIdempotent : Obligations.ReadsHaveNoSideEffectAndClearsAreIdempotent := by
  refine ⟨fun i s t v hread ht hanswer => ?_, exec_idempotent, exec_crcByte_not_idempotent, exec_stsByte_not_idempotent⟩
  obtain rfl := read_eq_answered i s t v hread ht hanswer
  exact ⟨rfl, exec_read_again i s v hread ht _⟩

end Sys2Proof.Machine


/-! ## The encoding family (30_encoding.md)

What decoding some fields gives, once for each of its three outcomes; the opcode table and the counts of words are read off
that. Then the response of every word, the layout of a frame, and the pseudo-instructions. -/

namespace Sys2Proof

/-! ### Decoding raw fields -/

theorem Opcode.ofBits_eq_some_iff (op : BitVec 4) (o : Opcode) : Opcode.ofBits op = some o ↔ o.toBits = op := by
  constructor
  · exact Opcode.toBits_of_ofBits op o
  · rintro rfl
    exact Opcode.ofBits_toBits o

/-- An opcode that is not reserved is one of the thirteen (30_encoding.md R64, R65). -/
theorem Opcode.exists_toBits_eq (op : BitVec 4) (h6 : op ≠ 0x6) (h7 : op ≠ 0x7) (hD : op ≠ 0xD) :
    ∃ o : Opcode, o.toBits = op := by
  have hsome : Opcode.ofBits op ≠ none := by
    rw [Ne, Opcode.ofBits_eq_none_iff]
    tauto
  obtain ⟨o, ho⟩ := Option.ne_none_iff_exists'.mp hsome
  exact ⟨o, Opcode.toBits_of_ofBits op o ho⟩

theorem Opcode.takesByte_iff_toBits (o : Opcode) : o.takesByte = true ↔ o.toBits = 0x2 ∨ o.toBits = 0x9 := by
  cases o <;> decide

/-- The fields of the command made of an opcode and data it may have (30_encoding.md R67). -/
theorem Opcode.command_fields (o : Opcode) (d : Byte) (h : o.takesByte = true ∨ d = 0x00) :
    (o.command d).fields = { op := o.toBits, rsv := 0x0, data := d } := by
  cases o with
  | crcByte | stsByte => rfl
  | _ =>
    obtain rfl : d = 0x00 := by simpa [Opcode.takesByte] using h
    rfl

theorem RawCommand.decode_eq_illegalCommand_iff (r : RawCommand) :
    r.decode = .error .illegalCommand ↔ r.op = 0x6 ∨ r.op = 0x7 ∨ r.op = 0xD := by
  rw [← Opcode.ofBits_eq_none_iff]
  unfold RawCommand.decode
  cases Opcode.ofBits r.op with
  | none => simp
  | some o =>
    dsimp only
    split_ifs <;> simp

theorem RawCommand.decode_eq_reservedField_iff (r : RawCommand) :
    r.decode = .error .reservedField ↔
      (∃ o : Opcode, o.toBits = r.op) ∧ r.rsv ≠ 0 ∨
      (∃ o : Opcode, o.takesByte = false ∧ o.toBits = r.op) ∧ r.rsv = 0 ∧ r.data ≠ 0 := by
  simp only [← Opcode.ofBits_eq_some_iff]
  unfold RawCommand.decode
  cases Opcode.ofBits r.op with
  | none => simp
  | some o =>
    dsimp only
    split_ifs <;> simp_all

theorem decode_toWord (r : RawCommand) : decode r.toWord = r.decode := by
  rw [decode, RawCommand.ofWord_toWord]

/-- Fields decode to a command exactly when they are its fields. -/
theorem RawCommand.decode_eq_ok_iff (r : RawCommand) (i : Instr) : r.decode = .ok i ↔ i.fields = r := by
  constructor
  · intro h
    unfold RawCommand.decode at h
    split at h
    · cases h
    · next o ho =>
      split_ifs at h with hrsv hdata
      cases h
      have hmay : o.takesByte = true ∨ r.data = 0x00 := by simpa [or_iff_not_imp_left] using hdata
      rw [o.command_fields r.data hmay, o.toBits_of_ofBits r.op ho, ← not_not.mp hrsv]
  · rintro rfl
    have hword := Machine.decode_encode i
    rwa [encode, decode_toWord] at hword

/-- Fields decode to a command of the opcode `o` exactly when they keep its constraints (30_encoding.md R64). -/
theorem RawCommand.decodes_to_opcode_iff (r : RawCommand) (o : Opcode) :
    (∃ i, r.decode = .ok i ∧ i.opcode = o) ↔
      r.op = o.toBits ∧ r.rsv = 0 ∧ (o.takesByte = true ∨ r.data = 0) := by
  simp only [RawCommand.decode_eq_ok_iff]
  constructor
  · rintro ⟨i, rfl, rfl⟩
    refine ⟨rfl, rfl, ?_⟩
    cases hb : i.opcode.takesByte with
    | true => exact .inl rfl
    | false => exact .inr (i.data_of_takesByte_false hb)
  · rintro ⟨hop, hrsv, hdata⟩
    refine ⟨o.command r.data, ?_, o.command_opcode r.data⟩
    rw [o.command_fields r.data hdata, ← hop, ← hrsv]

/-! ### The checks of R70, on a word written as its three fields -/

theorem decode_of_reserved_op (op rsv : BitVec 4) (data : Byte) (h : op = 0x6 ∨ op = 0x7 ∨ op = 0xD) :
    decode (op ++ rsv ++ data) = .error .illegalCommand := by
  rwa [decode_append, RawCommand.decode_eq_illegalCommand_iff]

theorem decode_of_rsv_ne_zero (op rsv : BitVec 4) (data : Byte) (h6 : op ≠ 0x6) (h7 : op ≠ 0x7) (hD : op ≠ 0xD)
    (hrsv : rsv ≠ 0) : decode (op ++ rsv ++ data) = .error .reservedField := by
  obtain ⟨o, ho⟩ := Opcode.exists_toBits_eq op h6 h7 hD
  rw [decode_append, RawCommand.decode_eq_reservedField_iff]
  exact .inl ⟨⟨o, ho⟩, hrsv⟩

theorem decode_of_data_ne_zero (op : BitVec 4) (data : Byte) (h6 : op ≠ 0x6) (h7 : op ≠ 0x7) (hD : op ≠ 0xD)
    (h2 : op ≠ 0x2) (h9 : op ≠ 0x9) (hdata : data ≠ 0x00) : decode (op ++ 0x0#4 ++ data) = .error .reservedField := by
  obtain ⟨o, rfl⟩ := Opcode.exists_toBits_eq op h6 h7 hD
  rw [decode_append, RawCommand.decode_eq_reservedField_iff]
  have hplain : o.takesByte = false := by
    rw [Bool.eq_false_iff, Ne, Opcode.takesByte_iff_toBits]
    tauto
  exact .inr ⟨⟨o, hplain, rfl⟩, rfl, hdata⟩

theorem decode_of_legal_fields (op : BitVec 4) (data : Byte) (h6 : op ≠ 0x6) (h7 : op ≠ 0x7) (hD : op ≠ 0xD)
    (h : op = 0x2 ∨ op = 0x9 ∨ data = 0x00) :
    ∃ i, decode (op ++ 0x0#4 ++ data) = .ok i ∧ i.fields = { op := op, rsv := 0x0, data := data } := by
  obtain ⟨o, rfl⟩ := Opcode.exists_toBits_eq op h6 h7 hD
  have hmay : o.takesByte = true ∨ data = 0x00 := by rwa [Opcode.takesByte_iff_toBits, or_assoc]
  have hfields := o.command_fields data hmay
  rw [decode_append]
  exact ⟨o.command data, (RawCommand.decode_eq_ok_iff _ _).mpr hfields, hfields⟩

/-! ### The opcode table -/

/-- The row of R64 for an opcode, put together from the opcode's bits and whether it takes a byte. -/
def Opcode.row (o : Opcode) : OpcodeRow where
  opcode := o
  matchBits := RawCommand.toWord { op := o.toBits, rsv := 0x0, data := 0x00 }
  mask := RawCommand.toWord { op := 0xF, rsv := 0xF, data := if o.takesByte then 0x00 else 0xFF }

theorem Opcode.mem_all (o : Opcode) : o ∈ Opcode.all := by
  cases o <;> decide

theorem mem_opcodeTable_iff (row : OpcodeRow) : row ∈ opcodeTable ↔ ∃ o : Opcode, o.row = row := by
  have htable : opcodeTable = Opcode.all.map Opcode.row := by decide
  simp [htable, Opcode.mem_all]

/-- Masking a word masks each of its fields. -/
theorem RawCommand.toWord_and_toWord (r m : RawCommand) :
    r.toWord &&& m.toWord = RawCommand.toWord { op := r.op &&& m.op, rsv := r.rsv &&& m.rsv, data := r.data &&& m.data } :=
  BitVec.and_append.trans (congrArg (· ++ (r.data &&& m.data)) BitVec.and_append)

theorem RawCommand.toWord_injective : Function.Injective RawCommand.toWord :=
  Function.LeftInverse.injective RawCommand.ofWord_toWord

/-- A word fits an opcode's row exactly when its fields keep the opcode's constraints. -/
theorem Opcode.row_fits_iff (o : Opcode) (r : RawCommand) :
    o.row.fits r.toWord = true ↔ r.op = o.toBits ∧ r.rsv = 0 ∧ (o.takesByte = true ∨ r.data = 0) := by
  have hop : r.op &&& 0xF = r.op := BitVec.and_allOnes
  have hrsv : r.rsv &&& 0xF = r.rsv := BitVec.and_allOnes
  have hall : r.data &&& 0xFF = r.data := BitVec.and_allOnes
  have hdata : (r.data &&& if o.takesByte then 0x00 else 0xFF) = 0x00 ↔ o.takesByte = true ∨ r.data = 0 := by
    cases o.takesByte with
    | true => simp
    | false =>
      rw [if_neg Bool.false_ne_true, hall]
      simp
  rw [OpcodeRow.fits, beq_iff_eq, Opcode.row, RawCommand.toWord_and_toWord, RawCommand.toWord_injective.eq_iff,
    RawCommand.mk.injEq, hop, hrsv, hdata]

/-- So it fits exactly when it decodes to a command of the opcode. -/
theorem Opcode.row_fits_iff_decode (o : Opcode) (w : Word) :
    o.row.fits w = true ↔ ∃ i, decode w = .ok i ∧ i.opcode = o := by
  rw [← RawCommand.toWord_ofWord w, Opcode.row_fits_iff, decode_toWord, RawCommand.decodes_to_opcode_iff]

/-! ### Counting words by their fields -/

theorem card_bitVec (n : Nat) : Fintype.card (BitVec n) = 2 ^ n := by
  rw [Fintype.card_congr BitVec.equivFin.toEquiv, Fintype.card_fin]

/-- The bits of the opcodes with a property. -/
def Opcode.bitsWhere (p : Opcode → Bool) : Finset (BitVec 4) :=
  ((Opcode.all.filter p).map Opcode.toBits).toFinset

@[simp] theorem Opcode.mem_bitsWhere (p : Opcode → Bool) (op : BitVec 4) :
    op ∈ Opcode.bitsWhere p ↔ ∃ o : Opcode, p o = true ∧ o.toBits = op := by
  simp [Opcode.bitsWhere, Opcode.mem_all]

/-- The fields each of which is in its set. -/
def RawCommand.box (ops rsvs : Finset (BitVec 4)) (datas : Finset Byte) : Finset RawCommand :=
  (ops ×ˢ rsvs ×ˢ datas).image fun f => { op := f.1, rsv := f.2.1, data := f.2.2 }

@[simp] theorem RawCommand.mem_box (ops rsvs : Finset (BitVec 4)) (datas : Finset Byte) (r : RawCommand) :
    r ∈ RawCommand.box ops rsvs datas ↔ r.op ∈ ops ∧ r.rsv ∈ rsvs ∧ r.data ∈ datas := by
  obtain ⟨op, rsv, data⟩ := r
  simp [RawCommand.box]

@[simp] theorem RawCommand.card_box (ops rsvs : Finset (BitVec 4)) (datas : Finset Byte) :
    (RawCommand.box ops rsvs datas).card = ops.card * (rsvs.card * datas.card) := by
  rw [RawCommand.box, Finset.card_image_of_injective, Finset.card_product, Finset.card_product]
  rintro ⟨op, rsv, data⟩ ⟨op', rsv', data'⟩ h
  simpa using h

theorem countP_range_eq_card (n : Nat) (p : Nat → Bool) :
    (List.range n).countP p = ((Finset.range n).filter fun k => p k = true).card := by
  rw [List.countP_eq_length_filter]
  simp [Finset.card, Finset.filter, Finset.range, Multiset.range]

/-- Words and fields correspond one to one, so a property holds of as many words as it does of fields. -/
theorem countP_words_eq_card (p : Nat → Bool) (fields : Finset RawCommand)
    (h : ∀ r : RawCommand, p r.toWord.toNat = true ↔ r ∈ fields) : (List.range 65536).countP p = fields.card := by
  rw [countP_range_eq_card]
  have hword : ∀ n ∈ (Finset.range 65536).filter (fun n => p n = true),
      (RawCommand.ofWord (BitVec.ofNat 16 n)).toWord.toNat = n := by
    intro n hn
    rw [RawCommand.toWord_ofWord, BitVec.toNat_ofNat]
    exact Nat.mod_eq_of_lt (Finset.mem_range.mp (Finset.mem_filter.mp hn).1)
  refine Finset.card_nbij' (fun n => RawCommand.ofWord (BitVec.ofNat 16 n)) (fun r => r.toWord.toNat) ?_ ?_ hword ?_
  · intro n hn
    rw [Finset.mem_coe, ← h, hword n hn]
    exact (Finset.mem_filter.mp hn).2
  · intro r hr
    rw [Finset.mem_coe, Finset.mem_filter, Finset.mem_range, h]
    exact ⟨r.toWord.isLt, hr⟩
  · intro r _
    simp

/-- Three opcodes with anything after them. -/
theorem countP_illegalCommand :
    ((List.range 65536).countP fun n => decide (decode (BitVec.ofNat 16 n) = .error .illegalCommand)) = 12288 := by
  rw [countP_words_eq_card _ (RawCommand.box {0x6, 0x7, 0xD} Finset.univ Finset.univ)]
  · simp [card_bitVec]
  · intro r
    simp [decode_toWord, RawCommand.decode_eq_illegalCommand_iff]

/-- Thirteen opcodes with a reserved field that is not zero, and eleven that take no byte with data that is not zero. -/
theorem countP_reservedField :
    ((List.range 65536).countP fun n => decide (decode (BitVec.ofNat 16 n) = .error .reservedField)) = 52725 := by
  rw [countP_words_eq_card _ (RawCommand.box (Opcode.bitsWhere fun _ => true) {0}ᶜ Finset.univ ∪
    RawCommand.box (Opcode.bitsWhere fun o => !o.takesByte) {0} {0}ᶜ)]
  · have hdisjoint : Disjoint (RawCommand.box (Opcode.bitsWhere fun _ => true) {0}ᶜ Finset.univ)
        (RawCommand.box (Opcode.bitsWhere fun o => !o.takesByte) {0} {0}ᶜ) := by
      rw [Finset.disjoint_left]
      intro r hr hr'
      rw [RawCommand.mem_box] at hr hr'
      obtain ⟨-, hne, -⟩ := hr
      obtain ⟨-, hzero, -⟩ := hr'
      exact Finset.mem_compl.mp hne hzero
    have hdefined : (Opcode.bitsWhere fun _ => true).card = 13 := by decide
    have hplain : (Opcode.bitsWhere fun o => !o.takesByte).card = 11 := by decide
    rw [Finset.card_union_of_disjoint hdisjoint, RawCommand.card_box, RawCommand.card_box, hdefined, hplain]
    simp [Finset.card_compl, card_bitVec]
  · intro r
    simp [decode_toWord, RawCommand.decode_eq_reservedField_iff]

/-- Commands of some opcodes that may all have the same data: one word for each opcode and datum. -/
theorem countP_commands (f : Nat → Bool) (p : Opcode → Bool) (datas : Finset Byte)
    (hf : ∀ w : Word, f w.toNat = true ↔ ∃ i, decode w = .ok i ∧ p i.opcode = true)
    (hdatas : ∀ o : Opcode, p o = true → ∀ d : Byte, o.takesByte = true ∨ d = 0 ↔ d ∈ datas) :
    (List.range 65536).countP f = (Opcode.bitsWhere p).card * datas.card := by
  rw [countP_words_eq_card f (RawCommand.box (Opcode.bitsWhere p) {0} datas)]
  · simp
  · intro r
    have hopcode := r.decodes_to_opcode_iff
    rw [hf, decode_toWord, RawCommand.mem_box, Opcode.mem_bitsWhere, Finset.mem_singleton]
    constructor
    · rintro ⟨i, hi, hp⟩
      obtain ⟨hop, hrsv, hdata⟩ := (hopcode i.opcode).mp ⟨i, hi, rfl⟩
      exact ⟨⟨i.opcode, hp, hop.symm⟩, hrsv, (hdatas _ hp _).mp hdata⟩
    · rintro ⟨⟨o, hp, hop⟩, hrsv, hdata⟩
      obtain ⟨i, hi, rfl⟩ := (hopcode o).mpr ⟨hop.symm, hrsv, (hdatas o hp _).mpr hdata⟩
      exact ⟨i, hi, hp⟩

end Sys2Proof

namespace Sys2Proof.Machine

/-! ### What a word answers -/

/-- An illegal word takes the fault entry of its cause (60_exceptions.md R173). -/
theorem runWord_enters_fault (w : Word) (d : DecodeFault) (s : State) (h : decode w = .error d) :
    ∃ t, runWord w s = .next t ∧ FaultEntered (decodeCause d) s t :=
  ⟨_, runWord_of_error w d s h, raiseFault_entered (decodeCause d) s⟩

@[simp] theorem consumeByte_delivered (d : Byte) (s : State) : (consumeByte d s).delivered = s.delivered := by
  obtain ⟨-, heq⟩ | ⟨-, heq⟩ | ⟨-, heq⟩ := consumeByte_cases d s <;> rw [heq] <;> rfl

/-- A command without a result writes its elements and answers 0x0000 (30_encoding.md R71). -/
theorem exec_of_not_read (i : Instr) (s : State) (h : isReadCommand i = false) :
    ∃ u, exec i s = .next (respond 0x0000 u) ∧ u.delivered = s.delivered := by
  cases i with
  | nop => exact ⟨_, exec_nop s, rfl⟩
  | crcInit => exact ⟨_, exec_crcInit s, rfl⟩
  | crcByte d => exact ⟨_, exec_crcByte d s, rfl⟩
  | stsClear => exact ⟨_, exec_stsClear s, rfl⟩
  | stsByte d => exact ⟨_, exec_stsByte d s, consumeByte_delivered d s⟩
  | errClear => exact ⟨_, exec_errClear s, rfl⟩
  | crcRead | crcEmitHi | crcEmitLo | stsRead | stsOutcome | stsFill | errRead => cases h

/-- Every word ends by answering a value or by raising a fault, and delivers nothing itself. -/
theorem runWord_cases (w : Word) (s : State) :
    (∃ v u, runWord w s = .next (respond v u) ∧ u.delivered = s.delivered) ∨
    ∃ c, runWord w s = .next (raiseFault c s) := by
  cases hw : decode w with
  | error d => exact .inr ⟨_, runWord_of_error w d s hw⟩
  | ok i =>
    rw [runWord_of_ok w i s hw]
    cases hread : isReadCommand i with
    | true =>
      obtain ⟨v, hanswer⟩ | hfault := exec_read_cases i s hread
      · exact .inl ⟨v, s, hanswer, rfl⟩
      · exact .inr ⟨_, hfault⟩
    | false =>
      obtain ⟨u, hanswer, hdelivered⟩ := exec_of_not_read i s hread
      exact .inl ⟨_, u, hanswer, hdelivered⟩

/-! ### Frames -/

/-- A frame begins with its code and its parameter (30_encoding.md R81, R82). -/
theorem encodeFrame_take_four (cmd param : Word) (r : Rect) :
    (encodeFrame cmd param r).take 4 = be16 cmd ++ be16 param := rfl

/-! ### The statements -/

/-- Settles O3: the cause of the decoder's refusal is the one whose fault entry is taken. -/
theorem illegalWordsRaiseTheirCause : Obligations.IllegalWordsRaiseTheirCause := by
  refine ⟨rfl, rfl, fun op rsv data s hop => ?_, fun op rsv data s h6 h7 hD hrsv => ?_,
    fun op data s h6 h7 hD h2 h9 hdata => ?_⟩
  · exact runWord_enters_fault _ _ s (decode_of_reserved_op op rsv data hop)
  · exact runWord_enters_fault _ _ s (decode_of_rsv_ne_zero op rsv data h6 h7 hD hrsv)
  · exact runWord_enters_fault _ _ s (decode_of_data_ne_zero op data h6 h7 hD h2 h9 hdata)

/-- Settles O4: the three checks in their order, and the fields that come out each way, counted. -/
theorem decoderChecksInOrderWithTheStatedCounts : Obligations.DecoderChecksInOrderWithTheStatedCounts := by
  refine ⟨decode_of_reserved_op, decode_of_rsv_ne_zero, decode_of_data_ne_zero, decode_of_legal_fields,
    countP_illegalCommand, countP_reservedField, ?_, ?_⟩
  · refine (countP_commands _ Opcode.takesByte Finset.univ (fun w => ?_) fun o ho d => by simp [ho]).trans ?_
    · rw [BitVec.ofNat_toNat, BitVec.setWidth_eq]
      cases decode w <;> simp
    · rw [Finset.card_univ, card_bitVec]
      decide
  · refine (countP_commands _ (fun o => !o.takesByte) {0} (fun w => ?_) fun o ho d => by simp_all).trans ?_
    · rw [BitVec.ofNat_toNat, BitVec.setWidth_eq]
      cases decode w <;> simp
    · decide

/-- Settles O5: each row is put together from its opcode, and fits exactly the words of that opcode's commands. -/
theorem opcodeTableRowsDecideTheCommand : Obligations.OpcodeTableRowsDecideTheCommand := by
  simp only [Obligations.OpcodeTableRowsDecideTheCommand, mem_opcodeTable_iff, forall_exists_index,
    forall_apply_eq_imp_iff]
  refine ⟨by decide, fun o w => o.row_fits_iff_decode w, fun o o' w hfits hfits' => ?_, fun w hnone => ?_⟩
  · obtain ⟨i, hi, rfl⟩ := (o.row_fits_iff_decode w).mp hfits
    obtain ⟨i', hi', rfl⟩ := (o'.row_fits_iff_decode w).mp hfits'
    rw [Except.ok.inj (hi.symm.trans hi')]
  · cases hw : decode w with
    | error d => exact ⟨d, rfl⟩
    | ok i =>
      have hfits := (i.opcode.row_fits_iff_decode w).mpr ⟨i, hw, rfl⟩
      rw [hnone i.opcode] at hfits
      cases hfits

/-- Settles O37: a word ends by answering or by taking the fault entry, and each puts its response in flight. -/
theorem everyWordHasOneResponse : Obligations.EveryWordHasOneResponse := by
  refine ⟨fun w s => ?_, fun i s hread => ?_⟩
  · obtain ⟨v, u, hrun, hdelivered⟩ | ⟨c, hrun⟩ := runWord_cases w s
    · exact ⟨_, _, hrun, respond_port v u, hdelivered, nofun⟩
    · obtain ⟨hrecorded, -⟩ := raiseFault_entered c s
      exact ⟨_, _, hrun, raiseFault_port c s, raiseFault_delivered c s, fun _ => ⟨rfl, c, hrecorded⟩⟩
  · obtain ⟨u, hanswer, -⟩ := exec_of_not_read i s hread
    exact ⟨_, hanswer, inFlight_respond 0x0000 u⟩

/-- Settles O56: the fields are written out one after the other; the four first bytes are those of code and parameter. -/
theorem frameHasTheStatedLayout : Obligations.FrameHasTheStatedLayout := by
  refine ⟨fun cmd param r => ⟨rfl, rfl, rfl⟩, fun r => ?_, fun mode r => ?_⟩
  · rw [redrawFrame, encodeFrame_take_four]
    decide
  · rw [setModeFrame, encodeFrame_take_four]
    revert mode
    decide

/-- Settles O58: each expansion is its row of R73. -/
theorem pseudoInstructionsExpandAsStated : Obligations.PseudoInstructionsExpandAsStated :=
  ⟨fun _ => rfl, fun _ => rfl, rfl, fun _ => rfl, fun _ _ => rfl⟩

end Sys2Proof.Machine


/-! ## The CRC family (40_crc.md)

An update is linear, it moves the accumulator's low byte up unchanged, and it brings no accumulator to zero but the one that
holds the byte fed. The first two make the table-driven update, the last says which two bytes leave a zero residue. Then the
five commands; the fault of a set reserved field is read off the decoder once for all opcodes. -/

namespace Sys2Proof.Machine

/-! ### A word put together from two bytes -/

theorem shiftLeft_eight (v : Word) : v <<< 8 = joinBytes (loByte v) 0x00#8 :=
  BitVec.shiftLeft_eq_concat_of_lt (by decide)

theorem zext16_shiftLeft_eight (h : Byte) : zext16 h <<< 8 = joinBytes h 0x00#8 := by
  rw [shiftLeft_eight, loByte_zext16]

theorem joinBytes_xor (h h' l l' : Byte) : joinBytes h l ^^^ joinBytes h' l' = joinBytes (h ^^^ h') (l ^^^ l') :=
  BitVec.xor_append

theorem zext16_eq_joinBytes (l : Byte) : zext16 l = joinBytes 0x00#8 l :=
  zext16_eq_append l

theorem pair_eq_be16_iff (v : Word) (h l : Byte) : [h, l] = be16 v ↔ v = joinBytes h l := by
  constructor
  · intro hbytes
    obtain ⟨rfl, hlo⟩ := List.cons.inj hbytes
    obtain ⟨rfl, -⟩ := List.cons.inj hlo
    exact (joinBytes_hi_lo v).symm
  · rintro rfl
    rw [be16, hiByte_joinBytes, loByte_joinBytes]

/-- A byte put beside an empty low byte (30_encoding.md R62). -/
theorem joinBytes_zero_or_zext16 (h d : Byte) : joinBytes h 0x00#8 ||| zext16 d = joinBytes h d := by
  rw [zext16_eq_joinBytes, joinBytes, joinBytes, BitVec.or_append, BitVec.or_zero, BitVec.zero_or]
  rfl

/-! ### Where a step only shifts, and what it brings to zero -/

theorem crcShifts_eq_iterate (n : Nat) (c : Word) : crcShifts n c = crcShift^[n] c := by
  induction n generalizing c with
  | zero => rfl
  | succ n ih => rw [crcShifts, ih, Function.iterate_succ_apply]

theorem crcShift_of_top_clear (c : Word) (h : c.getLsbD 15 = false) : crcShift c = c <<< 1 := by
  rw [crcShift, h, if_neg Bool.false_ne_true]

theorem crcShift_of_top_set (c : Word) (h : c.getLsbD 15 = true) : crcShift c = (c <<< 1) ^^^ Config.crcPoly := by
  rw [crcShift, if_pos h]

/-- Steps that meet only clear bits only shift (40_crc.md R100). -/
theorem crcShifts_of_top_clear (n : Nat) (c : Word) (h : ∀ i < n, c.getLsbD (15 - i) = false) :
    crcShifts n c = c <<< n := by
  induction n generalizing c with
  | zero => rw [crcShifts, BitVec.shiftLeft_zero]
  | succ n ih =>
    have hshifted : ∀ i < n, (c <<< 1).getLsbD (15 - i) = false := fun i hi => by
      rw [BitVec.getLsbD_shiftLeft, Nat.sub_sub, h (i + 1) (by omega), Bool.and_false]
    rw [crcShifts, crcShift_of_top_clear c (h 0 n.succ_pos), ih _ hshifted, ← BitVec.shiftLeft_add, Nat.add_comm]

/-- No word but zero is shifted to zero: the polynomial has bit 0 set, and a shift leaves that bit clear. -/
theorem crcShift_eq_zero_iff (c : Word) : crcShift c = 0x0000#16 ↔ c = 0x0000#16 := by
  refine ⟨fun hzero => ?_, fun h => by rw [h]; rfl⟩
  cases htop : c.getLsbD 15 with
  | true =>
    rw [crcShift_of_top_set c htop, BitVec.xor_eq_zero_iff] at hzero
    have hbit : (c <<< 1).getLsbD 0 = true := by rw [hzero]; rfl
    simp at hbit
  | false =>
    rw [crcShift_of_top_clear c htop] at hzero
    refine BitVec.eq_of_getLsbD_eq fun i hi => ?_
    have hbit : (c <<< 1).getLsbD (i + 1) = false := by rw [hzero, BitVec.getLsbD_zero]
    obtain rfl | hlt : i = 15 ∨ i < 15 := by omega
    · exact htop
    · have hlt' : i + 1 < 16 := by omega
      simpa [hlt', BitVec.getLsbD_eq_getElem hi] using hbit

theorem crcShifts_eq_zero_iff (n : Nat) (c : Word) : crcShifts n c = 0x0000#16 ↔ c = 0x0000#16 := by
  induction n generalizing c with
  | zero => rfl
  | succ n ih => rw [crcShifts, ih, crcShift_eq_zero_iff]

/-! ### CrcStep on the two bytes of the accumulator -/

/-- The byte fed enters the accumulator's high byte. -/
theorem crcStep_joinBytes (h l d : Byte) : crcStep (joinBytes h l) d = crcShifts 8 (joinBytes (h ^^^ d) l) := by
  rw [crcStep, zext16_shiftLeft_eight, joinBytes_xor, BitVec.xor_zero]

/-- A low byte alone moves up unchanged. -/
theorem crcStep_zext16_zero (l : Byte) : crcStep (zext16 l) 0x00#8 = joinBytes l 0x00#8 := by
  have hclear : ∀ i < 8, (zext16 l).getLsbD (15 - i) = false := fun i hi => by
    rw [zext16, BitVec.getLsbD_setWidth, BitVec.getLsbD_of_ge l _ (by omega), Bool.and_false]
  rw [zext16_eq_joinBytes, crcStep_joinBytes, BitVec.xor_zero, ← zext16_eq_joinBytes, crcShifts_of_top_clear 8 _ hclear,
    zext16_shiftLeft_eight]

/-- The accumulator's high byte and the byte fed go through the update as one byte, and the low byte moves up beside them
(40_crc.md R103). -/
theorem crcStep_eq_shiftLeft_xor (c : Word) (d : Byte) :
    crcStep c d = (c <<< 8) ^^^ crcStep 0x0000#16 (hiByte c ^^^ d) := by
  have hsplit : crcStep (joinBytes (hiByte c) (loByte c)) d = crcStep (zext16 (loByte c)) (hiByte c ^^^ d) := by
    rw [zext16_eq_joinBytes, crcStep_joinBytes, crcStep_joinBytes, BitVec.zero_xor]
  rw [joinBytes_hi_lo] at hsplit
  rw [hsplit, shiftLeft_eight, ← crcStep_zext16_zero, ← crcStep_xor, BitVec.xor_zero, BitVec.zero_xor]

/-- A byte brings to zero the accumulator that holds it in its high byte, and no other. -/
theorem crcStep_eq_zero_iff (c : Word) (d : Byte) : crcStep c d = 0x0000#16 ↔ c = joinBytes d 0x00#8 := by
  rw [crcStep, crcShifts_eq_zero_iff, BitVec.xor_eq_zero_iff, zext16_shiftLeft_eight]

/-- Two bytes bring to zero the accumulator made of them, high byte first, and no other (40_crc.md R105). -/
theorem crcFold_pair_eq_zero_iff (c : Word) (h l : Byte) : crcFold c [h, l] = 0x0000#16 ↔ c = joinBytes h l := by
  calc crcFold c [h, l] = 0x0000#16
    _ ↔ crcStep c h = crcStep (zext16 l) 0x00#8 := by
      rw [crcFold_cons, crcFold_cons, crcFold_nil, crcStep_eq_zero_iff, crcStep_zext16_zero]
    _ ↔ crcStep (c ^^^ zext16 l) h = 0x0000#16 := by
      rw [← BitVec.xor_eq_zero_iff, ← crcStep_xor, BitVec.xor_zero]
    _ ↔ c ^^^ zext16 l = joinBytes h l ^^^ zext16 l := by
      rw [crcStep_eq_zero_iff, zext16_eq_joinBytes, joinBytes_xor h, BitVec.xor_zero, BitVec.xor_self]
    _ ↔ c = joinBytes h l := BitVec.xor_left_inj _

/-! ### The table -/

/-- The transcribed table, entry by entry (40_crc.md R102). -/
theorem crcTable_eq_map : crcTable = (List.range 256).map fun n => crcStep 0x0000#16 (BitVec.ofNat 8 n) := by
  decide +kernel

theorem crcTable_length : crcTable.length = 256 := by
  rw [crcTable_eq_map, List.length_map, List.length_range]

theorem crcTable_getElem? (i : Byte) : crcTable[i.toNat]? = some (crcStep 0x0000#16 i) := by
  rw [crcTable_eq_map, List.getElem?_map, List.getElem?_range i.isLt, Option.map_some, BitVec.ofNat_toNat,
    BitVec.setWidth_eq]

theorem tableEntry_eq_crcStep (i : Byte) : tableEntry i = crcStep 0x0000#16 i := by
  rw [tableEntry, List.getD_eq_getElem?_getD, crcTable_getElem?, Option.getD_some]

/-- The table-driven update is the bit-serial one (40_crc.md R103). -/
theorem tableStep_eq_crcStep (c : Word) (d : Byte) : tableStep c d = crcStep c d := by
  rw [tableStep, tableEntry_eq_crcStep, ← crcStep_eq_shiftLeft_xor]

theorem crcUpdate_eq_crcStep (impl : Config.CrcImpl) (c : Word) (d : Byte) : crcUpdate impl c d = crcStep c d := by
  cases impl with
  | bitserial => rfl
  | table => exact tableStep_eq_crcStep c d

/-! ### The checksum of a list -/

theorem crcStep_zero_zero : crcStep 0x0000 0x00 = 0x0000 := by
  decide

theorem checksum_append (m n : List Byte) : checksum (m ++ n) = crcFold (checksum m) n := by
  rw [checksum_eq_crcFold, checksum_eq_crcFold, crcFold_append]

theorem checksum_replicate_zero (n : Nat) : checksum (List.replicate n 0x00) = 0x0000 := by
  rw [checksum_eq_crcFold]
  induction n with
  | zero => rfl
  | succ n ih => rw [List.replicate_succ, crcFold_cons, crcStep_zero_zero, ih]

/-- Two trailing bytes leave a zero residue exactly when they are the checksum, high byte first (40_crc.md R115). -/
theorem checksum_append_eq_zero_iff (m t : List Byte) (ht : t.length = 2) :
    checksum (m ++ t) = 0x0000 ↔ t = be16 (checksum m) := by
  obtain ⟨h, l, rfl⟩ := List.length_eq_two.mp ht
  rw [checksum_append, pair_eq_be16_iff]
  exact crcFold_pair_eq_zero_iff (checksum m) h l

theorem checksum_encodeFrame (cmd param : Word) (r : Rect) : checksum (encodeFrame cmd param r) = 0x0000 :=
  (checksum_append_eq_zero_iff _ _ rfl).mpr rfl

/-- Folding a bytewise sum from a sum is the sum of the folds (40_crc.md R104). -/
theorem crcFold_zipWith_xor (a b : List Byte) (c c' : Word) (h : a.length = b.length) :
    crcFold (c ^^^ c') (List.zipWith (· ^^^ ·) a b) = crcFold c a ^^^ crcFold c' b := by
  induction a generalizing b c c' with
  | nil =>
    obtain rfl := List.length_eq_zero_iff.mp h.symm
    rfl
  | cons d a ih =>
    cases b with
    | nil => cases h
    | cons e b =>
      rw [List.zipWith_cons_cons, crcFold_cons, crcStep_xor, ih b _ _ (Nat.succ.inj h), crcFold_cons, crcFold_cons]

/-! ### Words with a reserved field set -/

/-- The reserved bits of a defined opcode must be zero (30_encoding.md R66). -/
theorem runWord_of_rsv_ne_zero (o : Opcode) (rsv : BitVec 4) (data : Byte) (s : State) (h : rsv ≠ 0) :
    ∃ t, runWord (o.toBits ++ rsv ++ data) s = .next t ∧ FaultEntered .reservedField s t := by
  refine runWord_enters_fault _ .reservedField s ?_
  rw [decode_append, RawCommand.decode_eq_reservedField_iff]
  exact .inl ⟨⟨o, rfl⟩, h⟩

/-- So must the data where the command takes no byte (30_encoding.md R67). -/
theorem runWord_of_field_ne_zero (o : Opcode) (hplain : o.takesByte = false) (rsv : BitVec 4) (data : Byte) (s : State)
    (h : rsv ≠ 0 ∨ data ≠ 0) :
    ∃ t, runWord (o.toBits ++ rsv ++ data) s = .next t ∧ FaultEntered .reservedField s t := by
  by_cases hrsv : rsv = 0
  · refine runWord_enters_fault _ .reservedField s ?_
    rw [decode_append, RawCommand.decode_eq_reservedField_iff]
    exact .inr ⟨⟨o, hplain, rfl⟩, hrsv, h.resolve_left (not_not.mpr hrsv)⟩
  · exact runWord_of_rsv_ne_zero o rsv data s hrsv

/-- The word of CRC.BYTE is its opcode with the byte put in (30_encoding.md R62, R64). -/
theorem encode_crcByte (d : Byte) : encode (.crcByte d) = 0x2000 ||| d.setWidth 16 := by
  have hword : joinBytes 0x20#8 0x00#8 = 0x2000 := by decide
  have hop : 0x2#4 ++ 0x0#4 = 0x20#8 := by decide
  calc encode (.crcByte d)
    _ = joinBytes (0x2#4 ++ 0x0#4) d := rfl
    _ = 0x2000 ||| zext16 d := by rw [hop, ← joinBytes_zero_or_zext16, hword]

/-! ### The statements -/

/-- Settles O11: the low byte moves up, and the table has what the high byte and the byte fed become. -/
theorem tableStepEqualsCrcStep : Obligations.TableStepEqualsCrcStep :=
  ⟨fun _ _ => rfl, tableStep_eq_crcStep, fun impl impl' c d => by
    rw [crcUpdate_eq_crcStep, crcUpdate_eq_crcStep]⟩

/-- Settles O12: zeros from zero stay zero, the residue is the one of R115, and the fold is linear. -/
theorem checksumHasTheDerivedProperties : Obligations.ChecksumHasTheDerivedProperties := by
  refine ⟨rfl, ⟨crcStep_zero_zero, fun n m => ?_⟩, ⟨fun m => ?_, checksum_encodeFrame⟩, fun a b hlen => ?_, by decide +kernel⟩
  · rw [checksum_append, checksum_replicate_zero, checksum_eq_crcFold]
  · exact (checksum_append_eq_zero_iff m _ rfl).mpr rfl
  · simpa [checksum_eq_crcFold] using crcFold_zipWith_xor a b 0x0000 0x0000 hlen

/-- Settles O13: the accumulator is the checksum of the bytes, and its last two bring it to zero only if they are the
checksum of those before. -/
theorem zeroResidueExactlyOnFramesThatCheck : Obligations.ZeroResidueExactlyOnFramesThatCheck := by
  intro s f hlen
  have hlast : (f.drop 13).length = 2 := by rw [List.length_drop, hlen]
  rw [crc_issueAll_crcInit_crcWords, ← checksum_append_eq_zero_iff (f.take 13) (f.drop 13) hlast, List.take_append_drop]

/-- Settles O14: CRC.INIT writes the accumulator and answers. -/
theorem crcInitSetsTheAccumulatorToZero : Obligations.CrcInitSetsTheAccumulatorToZero :=
  ⟨decode_encode .crcInit, exec_crcInit, runWord_of_field_ne_zero .crcInit rfl⟩

/-- Settles O15: CRC.BYTE writes CrcStep, which is TableStep too. -/
theorem crcByteFoldsOneByte : Obligations.CrcByteFoldsOneByte := by
  refine ⟨fun d => ?_, exec_crcByte, fun d s => ?_, runWord_of_rsv_ne_zero .crcByte⟩
  · rw [← encode_crcByte, decode_encode]
  · rw [tableStep_eq_crcStep]
    exact exec_crcByte d s

/-- Settles O16: CRC.READ answers the accumulator, which after the bytes of a list is their checksum. -/
theorem crcReadAnswersTheAccumulator : Obligations.CrcReadAnswersTheAccumulator := by
  refine ⟨decode_encode .crcRead, exec_crcRead, runWord_of_field_ne_zero .crcRead rfl, fun s m => ?_,
    fun s cmd param r => ?_⟩
  · refine ⟨_, exec_crcRead _, ?_⟩
    rw [inFlight_respond, crc_issueAll_crcInit_crcWords]
  · refine ⟨_, exec_crcRead _, ?_⟩
    rw [inFlight_respond, crc_issueAll_crcInit_crcWords, checksum_encodeFrame]

/-- Settles O17: CRC.EMITHI answers the high byte, widened by zeros. -/
theorem crcEmitHiAnswersTheHighByte : Obligations.CrcEmitHiAnswersTheHighByte :=
  ⟨decode_encode .crcEmitHi, exec_crcEmitHi, fun s => hiByte_zext16 (hiByte s.crc),
    runWord_of_field_ne_zero .crcEmitHi rfl⟩

/-- Settles O18: CRC.EMITLO answers the low byte, widened by zeros. -/
theorem crcEmitLoAnswersTheLowByte : Obligations.CrcEmitLoAnswersTheLowByte :=
  ⟨decode_encode .crcEmitLo, exec_crcEmitLo, fun s => hiByte_zext16 (loByte s.crc),
    runWord_of_field_ne_zero .crcEmitLo rfl⟩

/-- Settles O8: the loop is the iteration of its step. -/
theorem crcStepIsEightShiftXorSteps : Obligations.CrcStepIsEightShiftXorSteps :=
  fun c d => crcShifts_eq_iterate 8 (c ^^^ (zext16 d <<< 8))

/-- Settles O9: a byte appended is folded in last. -/
theorem checksumIsTheLeftFold : Obligations.ChecksumIsTheLeftFold :=
  ⟨rfl, fun m b => checksum_append m [b], rfl, checksum_eq_crcFold⟩

/-- Settles O10: the transcribed entries are the steps from zero. -/
theorem tableHoldsTheStepsFromZero : Obligations.TableHoldsTheStepsFromZero :=
  ⟨crcTable_length, crcTable_getElem?, by decide, by decide⟩

end Sys2Proof.Machine


/-! ## The status family (41_status.md)

What the classification, the source's `decode_status` and the two commands that need both response bytes can do, each said
once; then the five commands and the parser as a refinement of `decode_status`. -/

namespace Sys2Proof.Machine

/-! ### The classification -/

theorem classify_of_ne (w : Word) (h0 : w ≠ 0x0000) (h1 : w ≠ 0x0001) : classify w = .success := by
  rw [classify, if_neg h0, if_neg h1]

theorem outcomeCode_classify (w : Word) :
    outcomeCode (classify w) = if w = 0x0000 then 0x0001 else if w = 0x0001 then 0x0002 else 0x0000 := by
  rw [classify, apply_ite outcomeCode, apply_ite outcomeCode]
  rfl

/-- What `decode_status` can do (41_status.md R130): fail on fewer than two bytes, or classify the first two, low byte
first. -/
theorem decodeStatus_cases (m : List Byte) :
    (m.length < 2 ∧ decodeStatus m = none) ∨
    ∃ b0 b1 rest, m = b0 :: b1 :: rest ∧ decodeStatus m = some (classify (joinBytes b1 b0)) := by
  match m with
  | [] => exact .inl ⟨Nat.zero_lt_two, rfl⟩
  | [_] => exact .inl ⟨Nat.one_lt_two, rfl⟩
  | b0 :: b1 :: rest => exact .inr ⟨b0, b1, rest, rfl, rfl⟩

theorem decodeStatus_eq_none_iff (m : List Byte) : decodeStatus m = none ↔ m.length < 2 := by
  obtain ⟨hlen, hnone⟩ | ⟨b0, b1, rest, rfl, hsome⟩ := decodeStatus_cases m
  · exact iff_of_true hnone hlen
  · exact iff_of_false (by simp [hsome]) (by simp)

/-! ### The commands that need both response bytes -/

theorem fillCount_eq_two_iff (f : Fill) : fillCount f = 2 ↔ f = .two := by
  cases f <;> decide

theorem respondIfFilled_of_two (v : Word) (s : State) (h : s.stsFill = .two) : respondIfFilled v s = respond v s := by
  simpa [h] using respondIfFilled_cases v s

theorem respondIfFilled_of_ne_two (v : Word) (s : State) (h : s.stsFill ≠ .two) :
    respondIfFilled v s = raiseFault .shortResponse s := by
  simpa [h] using respondIfFilled_cases v s

/-- Below two bytes the fault entry of ShortResponse is taken (41_status.md R133, R134). -/
theorem respondIfFilled_entered (v : Word) (s : State) (h : s.stsFill ≠ .two) :
    FaultEntered .shortResponse s (respondIfFilled v s) := by
  rw [respondIfFilled_of_ne_two v s h]
  exact raiseFault_entered .shortResponse s

/-! ### The word of STS.BYTE -/

/-- A command's word is its opcode beside zeros, with its data put in (30_encoding.md R62). -/
theorem encode_eq_or_zext16 (i : Instr) :
    encode i = joinBytes (i.opcode.toBits ++ 0x0#4) 0x00#8 ||| zext16 i.data :=
  (joinBytes_zero_or_zext16 _ _).symm

theorem encode_stsByte (d : Byte) : encode (.stsByte d) = 0x9000 ||| d.setWidth 16 := by
  have hop : joinBytes (Opcode.stsByte.toBits ++ 0x0#4) 0x00#8 = 0x9000 := by decide
  rw [← hop]
  exact encode_eq_or_zext16 (.stsByte d)

/-! ### The statements -/

/-- Settles O19: STS.CLEAR writes the parser's two elements and answers. -/
theorem stsClearEmptiesTheParser : Obligations.StsClearEmptiesTheParser :=
  ⟨decode_encode .stsClear, exec_stsClear, runWord_of_field_ne_zero .stsClear rfl⟩

/-- Settles O20: STS.BYTE answers 0x0000 after consuming its byte, at each fill. -/
theorem stsByteFillsLowThenHighThenIgnores : Obligations.StsByteFillsLowThenHighThenIgnores := by
  refine ⟨fun d => ?_, fun d s hfill => ?_, fun d s hfill => ?_, fun d s hfill => ?_, runWord_of_rsv_ne_zero .stsByte⟩
  · rw [← encode_stsByte, decode_encode]
  · rw [exec_stsByte, consumeByte_of_zero d s hfill]
    rfl
  · rw [exec_stsByte, consumeByte_of_one d s hfill]
    rfl
  · rw [exec_stsByte, consumeByte_of_two d s hfill, respond_eq_answered]

/-- Settles O21: STS.READ answers the status word once both bytes are there. -/
theorem stsReadAnswersTheStatusWord : Obligations.StsReadAnswersTheStatusWord := by
  refine ⟨decode_encode .stsRead, fun s hfill => ?_, fun s hfill => ?_, runWord_of_field_ne_zero .stsRead rfl⟩
  · rw [exec_stsRead, respondIfFilled_of_two _ s hfill, respond_eq_answered]
  · exact ⟨_, exec_stsRead s, respondIfFilled_entered _ s hfill⟩

/-- Settles O22: STS.OUTCOME answers the code of the status word's class once both bytes are there. -/
theorem stsOutcomeClassifiesTheStatusWord : Obligations.StsOutcomeClassifiesTheStatusWord := by
  refine ⟨decode_encode .stsOutcome, fun s hfill => ?_, fun s hfill => ?_, runWord_of_field_ne_zero .stsOutcome rfl⟩
  · rw [exec_stsOutcome, respondIfFilled_of_two _ s hfill, respond_eq_answered, outcomeCode_classify]
  · exact ⟨_, exec_stsOutcome s, respondIfFilled_entered _ s hfill⟩

/-- Settles O23: STS.FILL answers the count at each fill. -/
theorem stsFillAnswersTheCount : Obligations.StsFillAnswersTheCount := by
  refine ⟨decode_encode .stsFill, fun s => ?_, runWord_of_field_ne_zero .stsFill rfl⟩
  rw [exec_stsFill, respond_eq_answered]
  cases s.stsFill <;> rfl

/-- Settles O29: the parser holds what `decode_status` looks at, and is short of two bytes exactly where that fails. -/
theorem outcomeIsDecodeStatusOfTheResponse : Obligations.OutcomeIsDecodeStatusOfTheResponse := by
  intro s m
  obtain ⟨hcount, hword⟩ := statusParserHoldsTheFirstTwoBytes s m (issue s 0x8000) (.inl rfl)
  refine ⟨_, exec_stsOutcome _, ?_⟩
  obtain ⟨hlen, hnone⟩ | ⟨b0, b1, rest, rfl, hsome⟩ := decodeStatus_cases m
  · have hshort : (issueAll (issue s 0x8000) (stsWords m)).stsFill ≠ .two := by
      rw [Ne, ← fillCount_eq_two_iff]
      omega
    rw [hnone, respondIfFilled_of_ne_two _ _ hshort, inFlight_raiseFault]
  · have hfull : (issueAll (issue s 0x8000) (stsWords (b0 :: b1 :: rest))).stsFill = .two := by
      rw [← fillCount_eq_two_iff, hcount]
      simp
    rw [hsome, respondIfFilled_of_two _ _ hfull, inFlight_respond, hword]
    rfl

/-- Settles O30: the two failures are the words 0x0000 and 0x0001, and only a list of fewer than two bytes has no class. -/
theorem classificationIsTotalWithTheStatedCodes : Obligations.ClassificationIsTotalWithTheStatedCodes :=
  ⟨rfl, rfl, classify_of_ne, rfl, rfl, rfl, decodeStatus_eq_none_iff⟩

end Sys2Proof.Machine


/-! ## The control family (42_control.md)

The hard-wired bits of `err` as it is read, and that a recorded fault leaves a cause; then the three commands. -/

namespace Sys2Proof.Machine

/-! ### Reading `err` -/

/-- Bits 15:9 read as 0 whatever is stored (10_state.md R24). -/
theorem readErr_reserved_bits (s : State) : (readErr s).extractLsb' 9 7 = 0 := by
  have hmask : errMask.extractLsb' 9 7 = 0#7 := by decide
  rw [readErr, BitVec.extractLsb'_and, hmask, BitVec.and_zero]
  rfl

/-- The implemented bits, CAUSE and OVF, read as they are stored (10_state.md R24). -/
theorem readErr_implemented_bits (s : State) : (readErr s).extractLsb' 0 9 = s.err.extractLsb' 0 9 := by
  have hmask : errMask.extractLsb' 0 9 = BitVec.allOnes 9 := by decide
  rw [readErr, BitVec.extractLsb'_and, hmask, BitVec.and_allOnes]

theorem readErr_of_reserved_bits_zero (s : State) (h : s.err.extractLsb' 9 7 = 0) : readErr s = s.err :=
  calc readErr s
    _ = (readErr s).extractLsb' 9 7 ++ (readErr s).extractLsb' 0 9 :=
      (BitVec.extractLsb'_append_extractLsb' (w := 7) (len := 9)).symm
    _ = s.err.extractLsb' 9 7 ++ s.err.extractLsb' 0 9 := by rw [readErr_reserved_bits, readErr_implemented_bits, h]
    _ = s.err := BitVec.extractLsb'_append_extractLsb' (w := 7) (len := 9)

/-! ### A recorded cause -/

/-- 0x00 is the code of no cause (60_exceptions.md R171). -/
theorem causeCode_ne_zero (c : Cause) : causeCode c ≠ 0x00 := by
  cases c <;> decide

/-- CAUSE is the new cause, or the earlier one that is kept (60_exceptions.md R174). -/
theorem errCause_ne_zero_of_faultEntered (c : Cause) (s t : State) (h : FaultEntered c s t) : errCause t.err ≠ 0x00 := by
  obtain ⟨⟨hfirst, hlater, -⟩, -⟩ := h
  by_cases hclear : errCause s.err = 0x00
  · obtain ⟨hcause, -⟩ := hfirst hclear
    rw [hcause]
    exact causeCode_ne_zero c
  · obtain ⟨hkept, -⟩ := hlater hclear
    rwa [hkept]

/-! ### Clearing `err` -/

theorem writeErr_zero (s : State) : writeErr 0x0000 s = { s with err := 0x0000 } := by
  have hmasked : 0x0000 &&& errMask = 0x0000 := by decide
  rw [writeErr, hmasked]

/-! ### The statements -/

/-- Settles O24: NOP only answers. -/
theorem nopChangesNothing : Obligations.NopChangesNothing :=
  ⟨decode_encode .nop, exec_nop, runWord_of_field_ne_zero .nop rfl⟩

/-- Settles O25: ERR.READ answers `err` as it is read. -/
theorem errReadAnswersTheErrorRegister : Obligations.ErrReadAnswersTheErrorRegister := by
  refine ⟨decode_encode .errRead, fun s => ?_, fun s hreserved => ?_, runWord_of_field_ne_zero .errRead rfl⟩
  · exact ⟨readErr s, exec_errRead s, readErr_reserved_bits s, readErr_implemented_bits s⟩
  · rw [exec_errRead, readErr_of_reserved_bits_zero s hreserved, respond_eq_answered]

/-- Settles O26: ERR.CLEAR writes zero and answers; its faulting words record their cause. -/
theorem errClearClearsTheErrorRegister : Obligations.ErrClearClearsTheErrorRegister := by
  refine ⟨decode_encode .errClear, fun s => ?_, fun rsv data s hfield => ?_⟩
  · rw [exec_errClear, writeErr_zero]
    rfl
  · obtain ⟨t, hrun, hentered⟩ := runWord_of_field_ne_zero .errClear rfl rsv data s hfield
    exact ⟨t, hrun, hentered, errCause_ne_zero_of_faultEntered _ s t hentered⟩

end Sys2Proof.Machine


/-! ## The fault family (60_exceptions.md)

What one more fault does to `err`, at first and later, and so what any number of faults does; the words that take a fault
entry and those that answer; and that `err` decides nothing but the response of ERR.READ. -/

namespace Sys2Proof.Machine

/-! ### Recording faults -/

/-- The first fault since a clear sets CAUSE and leaves OVF (60_exceptions.md R174). -/
theorem raiseFault_err_of_clear (c : Cause) (s : State) (h : errCause s.err = 0x00) :
    errCause (raiseFault c s).err = causeCode c ∧ errOvf (raiseFault c s).err = errOvf s.err := by
  obtain ⟨⟨hfirst, -⟩, -⟩ := raiseFault_entered c s
  exact hfirst h

/-- A later one sets OVF and keeps CAUSE (60_exceptions.md R174). -/
theorem raiseFault_err_of_recorded (c : Cause) (s : State) (h : errCause s.err ≠ 0x00) :
    errCause (raiseFault c s).err = errCause s.err ∧ errOvf (raiseFault c s).err = true := by
  obtain ⟨⟨-, hlater, -⟩, -⟩ := raiseFault_entered c s
  exact hlater h

/-- The faults of the causes `cs`, one after the other. -/
def raiseFaults (s : State) (cs : List Cause) : State :=
  cs.foldl (fun t k => raiseFault k t) s

/-- While a cause is recorded, faults keep it, and the first of them sets OVF for good (60_exceptions.md R176). -/
theorem raiseFaults_err_of_recorded (cs : List Cause) (s : State) (h : errCause s.err ≠ 0x00) :
    errCause (raiseFaults s cs).err = errCause s.err ∧
    errOvf (raiseFaults s cs).err = (!cs.isEmpty || errOvf s.err) := by
  induction cs generalizing s with
  | nil => exact ⟨rfl, rfl⟩
  | cons c cs ih =>
    obtain ⟨hkept, hovf⟩ := raiseFault_err_of_recorded c s h
    obtain ⟨hcause, hovf'⟩ := ih (raiseFault c s) (by rwa [hkept])
    rw [hovf, Bool.or_true] at hovf'
    exact ⟨hcause.trans hkept, hovf'⟩

theorem causeCode_le_three (c : Cause) : (causeCode c).toNat ≤ 3 := by
  cases c <;> decide

/-- A fault records no code above 0x03 (60_exceptions.md R171). -/
theorem raiseFault_errCause_le_three (c : Cause) (s : State) (h : (errCause s.err).toNat ≤ 3) :
    (errCause (raiseFault c s).err).toNat ≤ 3 := by
  by_cases hclear : errCause s.err = 0x00
  · obtain ⟨hcause, -⟩ := raiseFault_err_of_clear c s hclear
    rw [hcause]
    exact causeCode_le_three c
  · obtain ⟨hkept, -⟩ := raiseFault_err_of_recorded c s hclear
    rwa [hkept]

/-! ### The words that fault and those that answer -/

/-- A word that decodes is its command's word (30_encoding.md R69). -/
theorem encode_of_decode (w : Word) (i : Instr) (h : decode w = .ok i) : encode i = w := by
  have hfields : i.fields = RawCommand.ofWord w := (RawCommand.decode_eq_ok_iff _ _).mp h
  rw [encode, hfields, RawCommand.toWord_ofWord]

/-- STS.READ and STS.OUTCOME fault below two bytes (41_status.md R133, R134). -/
theorem runWord_enters_shortResponse (w : Word) (s : State) (hw : w = 0xA000 ∨ w = 0xB000) (hshort : s.stsFill ≠ .two) :
    ∃ t, runWord w s = .next t ∧ FaultEntered .shortResponse s t := by
  obtain rfl | rfl := hw
  · exact ⟨_, (runWord_encode .stsRead s).trans (exec_stsRead s), respondIfFilled_entered _ s hshort⟩
  · exact ⟨_, (runWord_encode .stsOutcome s).trans (exec_stsOutcome s), respondIfFilled_entered _ s hshort⟩

/-- Every other command answers, and so do these two once both bytes are there. -/
theorem exec_responds (i : Instr) (s : State) (h : (i ≠ .stsRead ∧ i ≠ .stsOutcome) ∨ s.stsFill = .two) :
    ∃ v u, exec i s = .next (respond v u) := by
  cases i with
  | stsRead =>
    have hfull : s.stsFill = .two := by simpa using h
    exact ⟨_, _, by rw [exec_stsRead, respondIfFilled_of_two _ s hfull]⟩
  | stsOutcome =>
    have hfull : s.stsFill = .two := by simpa using h
    exact ⟨_, _, by rw [exec_stsOutcome, respondIfFilled_of_two _ s hfull]⟩
  | _ => exact ⟨_, _, rfl⟩

theorem runWord_responds (w : Word) (i : Instr) (s : State) (hw : decode w = .ok i)
    (h : (w ≠ 0xA000 ∧ w ≠ 0xB000) ∨ s.stsFill = .two) : ∃ v u, runWord w s = .next (respond v u) := by
  obtain rfl := encode_of_decode w i hw
  rw [runWord_encode]
  refine exec_responds i s (h.imp_left fun ⟨hread, houtcome⟩ => ⟨?_, ?_⟩)
  · rintro rfl
    exact hread rfl
  · rintro rfl
    exact houtcome rfl

/-! ### What `err` decides -/

/-- The state with `e` in `err`. -/
def State.withErr (s : State) (e : Word) : State :=
  { s with err := e }

theorem consumeByte_withErr (d : Byte) (s : State) (e : Word) :
    consumeByte d (s.withErr e) = (consumeByte d s).withErr e := by
  obtain ⟨hfill, heq⟩ | ⟨hfill, heq⟩ | ⟨hfill, heq⟩ := consumeByte_cases d s
  · rw [heq, consumeByte_of_zero d (s.withErr e) hfill]
    rfl
  · rw [heq, consumeByte_of_one d (s.withErr e) hfill]
    rfl
  · rw [heq, consumeByte_of_two d (s.withErr e) hfill]

theorem respondIfFilled_withErr (v : Word) (s : State) (e : Word) :
    ∃ e', respondIfFilled v (s.withErr e) = (respondIfFilled v s).withErr e' := by
  obtain ⟨hfill, heq⟩ | ⟨hfill, heq⟩ := respondIfFilled_cases v s
  · rw [heq, respondIfFilled_of_two v (s.withErr e) hfill]
    exact ⟨e, rfl⟩
  · rw [heq, respondIfFilled_of_ne_two v (s.withErr e) hfill]
    exact ⟨_, rfl⟩

/-- From states that differ in `err` only, every command but ERR.READ leads to states that differ in `err` only
(60_exceptions.md R175). -/
theorem exec_withErr (i : Instr) (hi : i ≠ .errRead) (s : State) (e : Word) :
    ∃ t e', exec i s = .next t ∧ exec i (s.withErr e) = .next (t.withErr e') := by
  cases i with
  | errRead => exact absurd rfl hi
  | stsByte d => exact ⟨_, e, exec_stsByte d s, by rw [exec_stsByte, consumeByte_withErr]; rfl⟩
  | stsRead =>
    obtain ⟨e', he'⟩ := respondIfFilled_withErr s.stsWord s e
    exact ⟨_, e', exec_stsRead s, congrArg _ he'⟩
  | stsOutcome =>
    obtain ⟨e', he'⟩ := respondIfFilled_withErr (outcomeCode (classify s.stsWord)) s e
    exact ⟨_, e', exec_stsOutcome s, congrArg _ he'⟩
  | _ => exact ⟨_, _, rfl, rfl⟩

/-- So does every word but ERR.READ's, legal or not. -/
theorem runWord_withErr (w : Word) (hw : w ≠ 0xE000) (s : State) (e : Word) :
    ∃ t e', runWord w s = .next t ∧ runWord w (s.withErr e) = .next (t.withErr e') := by
  cases hd : decode w with
  | error d => exact ⟨_, _, runWord_of_error w d s hd, runWord_of_error w d (s.withErr e) hd⟩
  | ok i =>
    have hi : i ≠ .errRead := by
      rintro rfl
      exact hw (encode_of_decode w .errRead hd).symm
    rw [runWord_of_ok w i s hd, runWord_of_ok w i (s.withErr e) hd]
    exact exec_withErr i hi s e

/-! ### After a fault's response -/

/-- Once a response is delivered no command is in flight, so the engine is ready (30_encoding.md R60). -/
theorem cmdReady_deliver (r : Response) (e : Edge) (s : State) (h : e.rstN = true) : cmdReady e (deliver r s) = true := by
  rw [cmdReady, h]
  rfl

/-! ### The statements -/

/-- Settles O32: the two cases of recording a fault. -/
theorem recordFaultKeepsTheFirstCause : Obligations.RecordFaultKeepsTheFirstCause :=
  fun c s => ⟨raiseFault_err_of_clear c s, raiseFault_err_of_recorded c s⟩

/-- Settles O33: the first fault sets CAUSE, and from then on it is recorded. -/
theorem laterFaultsOnlySetOverflow : Obligations.LaterFaultsOnlySetOverflow := by
  refine ⟨fun s c cs hzero => ?_, fun s c cs hrecorded => ?_, fun s => ⟨_, exec_errClear s, ?_⟩⟩
  · obtain ⟨hclear, hclearOvf⟩ : errCause s.err = 0x00 ∧ errOvf s.err = false := by
      rw [hzero]
      decide
    obtain ⟨hcause, hovf⟩ := raiseFault_err_of_clear c s hclear
    have hrecorded : errCause (raiseFault c s).err ≠ 0x00 := hcause ▸ causeCode_ne_zero c
    obtain ⟨hkept, hovf'⟩ := raiseFaults_err_of_recorded cs (raiseFault c s) hrecorded
    rw [hovf, hclearOvf, Bool.or_false] at hovf'
    exact ⟨hkept.trans hcause, hovf'⟩
  · exact raiseFaults_err_of_recorded (c :: cs) s hrecorded
  · rw [writeErr_zero, respond_err]

/-- Settles O34: the decoder's refusals and the two short reads take their fault entries, every other word answers. -/
theorem everyFaultHasItsStatedCause : Obligations.EveryFaultHasItsStatedCause := by
  refine ⟨rfl, rfl, rfl, raiseFault_errCause_le_three, fun w s => ⟨?_, ?_, ?_, fun i hw h => ?_⟩⟩
  · exact runWord_enters_fault w .illegalCommand s
  · exact runWord_enters_fault w .reservedField s
  · exact runWord_enters_shortResponse w s
  · obtain ⟨v, u, hrun⟩ := runWord_responds w i s hw h
    exact ⟨_, v, hrun, inFlight_respond v u⟩

/-- Settles O35: the decoder checks the opcode before the other fields, and only a word it takes reaches the parser. -/
theorem firstCauseInPriorityOrderIsReported : Obligations.FirstCauseInPriorityOrderIsReported := by
  refine ⟨fun op rsv data s hop _ => ?_, fun op rsv data s hop hfield _ => ?_, fun op s hop hshort => ?_⟩
  · exact runWord_enters_fault _ .illegalCommand s (decode_of_reserved_op op rsv data hop)
  · obtain rfl | rfl := hop
    · exact runWord_of_field_ne_zero .stsRead rfl rsv data s hfield
    · exact runWord_of_field_ne_zero .stsOutcome rfl rsv data s hfield
  · refine runWord_enters_shortResponse _ s ?_ hshort
    revert op
    decide

/-- Settles O36: but for ERR.READ the two next states differ in `err` only, and ERR.READ writes no element. -/
theorem setErrBlocksNoCommand : Obligations.SetErrBlocksNoCommand := by
  intro w s e
  by_cases hw : w = 0xE000
  · subst hw
    have hrun (u : State) : runWord 0xE000 u = .next (respond (readErr u) u) := runWord_encode .errRead u
    exact ⟨_, _, hrun s, hrun (s.withErr e), rfl, rfl, rfl, absurd rfl⟩
  · obtain ⟨t, e', hrun, hrun'⟩ := runWord_withErr w hw s e
    exact ⟨t, _, hrun, hrun', rfl, rfl, rfl, fun _ => rfl⟩

/-- Settles O31: the frame of the fault entry, and that a delivered response leaves the engine ready. -/
theorem faultEntryChangesOnlyErr : Obligations.FaultEntryChangesOnlyErr := by
  intro c s
  obtain ⟨-, hframe⟩ := raiseFault_entered c s
  exact ⟨hframe, fun r e hrst => cmdReady_deliver r e _ hrst⟩

end Sys2Proof.Machine


/-! ## The reset family (70_reset_and_hazards.md)

What an edge with `rst_n = 0` does, from every state and at the pins; that a command offered before the first reset is refused;
and that reset agrees with the two initialising commands. -/

namespace Sys2Proof.Machine

/-! ### The state after a reset edge -/

/-- Each of the four elements takes its value of 10_state.md R30. -/
theorem resetEdge_sameElements (e : Edge) (s : State) : SameElements (resetEdge e s) State.reset :=
  ⟨rfl, rfl, rfl, rfl⟩

@[simp] theorem resetEdge_port (e : Edge) (s : State) : (resetEdge e s).port = .idle := rfl

@[simp] theorem resetEdge_edges (e : Edge) (s : State) : (resetEdge e s).edges = s.edges := rfl

/-! ### Steps at a reset edge, and before the first one -/

theorem step_of_edges (s : State) (e : Edge) (rest : List Edge) (h : s.edges = e :: rest) :
    step s = runEdge e { s with edges := rest } := by
  rw [step, h]

theorem runEdge_of_refuse (e : Edge) (s : State) (why : Refusal) (h : edgeKind e s = .refuse why) :
    runEdge e s = .refused why := by
  rw [runEdge, h]

theorem runEdge_of_rstN_false (e : Edge) (s : State) (h : e.rstN = false) : runEdge e s = .next (resetEdge e s) := by
  rw [runEdge, (edgeKind_reset_iff e s).mpr h]

/-- Reset comes before everything else an edge can ask, in every state and whatever the other pins
(70_reset_and_hazards.md R200). -/
theorem step_of_rstN_false (s : State) (e : Edge) (rest : List Edge) (h : s.edges = e :: rest) (hrst : e.rstN = false) :
    step s = .next (resetEdge e { s with edges := rest }) := by
  rw [step_of_edges s e rest h, runEdge_of_rstN_false e _ hrst]

theorem edgeKind_of_unreset_cmdValid (e : Edge) (s : State) (hport : s.port = .unreset) (hrst : e.rstN = true)
    (hvalid : e.cmdValid = true) : edgeKind e s = .refuse .commandBeforeReset := by
  simp [edgeKind, hport, hrst, hvalid]

/-! ### The output pins at a reset edge -/

/-- `cmd_ready` is low (70_reset_and_hazards.md R200). -/
theorem cmdReady_of_rstN_false (e : Edge) (s : State) (h : e.rstN = false) : cmdReady e s = false := by
  rw [cmdReady, h, Bool.false_and]

/-- `rsp_valid` is low (70_reset_and_hazards.md R200). -/
theorem rspOffered_of_rstN_false (e : Edge) (s : State) (h : e.rstN = false) : rspOffered e s = none := by
  rw [rspOffered, h]

/-! ### The statements -/

/-- Settles O47: the step at a reset edge gives every element its reset value; each command writes its own unit only. -/
theorem resetAgreesWithTheInitialisingCommands : Obligations.ResetAgreesWithTheInitialisingCommands := by
  intro s e rest hedges hrst
  obtain ⟨hcrc, hword, hfill, herr⟩ := resetEdge_sameElements e { s with edges := rest }
  exact ⟨_, _, _, step_of_rstN_false s e rest hedges hrst, exec_crcInit s, exec_stsClear s,
    hcrc, by simp, ⟨hword, hfill⟩, by simp, herr, by simp, by simp⟩

/-- Settles O44: the state after a reset edge, and the two output pins at it. -/
theorem resetEdgeOverridesEverything : Obligations.ResetEdgeOverridesEverything := by
  intro s e rest hedges hrst
  refine ⟨⟨_, step_of_rstN_false s e rest hedges hrst, ?_⟩, ?_, ?_⟩
  · exact ⟨resetEdge_sameElements e _, resetEdge_port e _, resetEdge_edges e _⟩
  · exact cmdReady_of_rstN_false e s hrst
  · exact rspOffered_of_rstN_false e s hrst

/-- Settles O48: before the first reset an edge that offers a command refuses it, and a reset edge leaves the port idle. -/
theorem commandBeforeResetIsRefused : Obligations.CommandBeforeResetIsRefused := by
  refine ⟨fun s e rest hedges hport hrst hvalid => ?_, fun s e rest hedges _ hrst => ?_⟩
  · rw [step_of_edges s e rest hedges]
    exact runEdge_of_refuse e _ _ (edgeKind_of_unreset_cmdValid e _ hport hrst hvalid)
  · exact ⟨_, step_of_rstN_false s e rest hedges hrst, resetEdge_port e _⟩

end Sys2Proof.Machine


/-! ## Words and frames (30_encoding.md)

The decoder and the encoder are each other's inverse, on the words the three checks of R65 to R67 let through; and the two
bytes that complete a frame. -/

namespace Sys2Proof

/-- The three checks of 30_encoding.md R65, R66 and R67, as conditions on the fields. -/
theorem RawCommand.wellFormed_iff (r : RawCommand) :
    r.wellFormed = true ↔
      (r.op ≠ 0x6 ∧ r.op ≠ 0x7 ∧ r.op ≠ 0xD) ∧ r.rsv = 0 ∧ (r.op = 0x2 ∨ r.op = 0x9 ∨ r.data = 0) := by
  simp [RawCommand.wellFormed, RawCommand.opDefined, RawCommand.rsvZero, RawCommand.dataAllowed, and_assoc, or_assoc]

end Sys2Proof

namespace Sys2Proof.Machine

/-! ### Words -/

/-- Settles O1: the word's fields are the command's, and they pass the decoder's checks. -/
theorem decodeOfEncodeIsTheCommand : Obligations.DecodeOfEncodeIsTheCommand :=
  decode_encode

/-- Settles O2: a word that decodes has the fields of its command, and its fields are all its bits. -/
theorem encodeOfDecodeIsTheWord : Obligations.EncodeOfDecodeIsTheWord :=
  encode_of_decode

/-- Settles O7: fields that decode are those of an opcode, so not reserved, with the constraints of that opcode. -/
theorem decodedWordsAreTheWellFormedOnes : Obligations.DecodedWordsAreTheWellFormedOnes := by
  intro w
  rw [RawCommand.wellFormed_iff, decode]
  constructor
  · rintro ⟨i, hi⟩
    obtain ⟨hop, hrsv, hdata⟩ := (RawCommand.decodes_to_opcode_iff _ i.opcode).mp ⟨i, hi, rfl⟩
    rw [Opcode.takesByte_iff_toBits, ← hop, or_assoc] at hdata
    refine ⟨?_, hrsv, hdata⟩
    rw [hop]
    cases i.opcode <;> decide
  · rintro ⟨⟨h6, h7, hD⟩, hrsv, hdata⟩
    obtain ⟨o, ho⟩ := Opcode.exists_toBits_eq _ h6 h7 hD
    rw [← ho, ← or_assoc, ← Opcode.takesByte_iff_toBits] at hdata
    obtain ⟨i, hi, -⟩ := (RawCommand.decodes_to_opcode_iff _ o).mpr ⟨ho.symm, hrsv, hdata⟩
    exact ⟨i, hi⟩

/-- Settles O6: six words are the encodings of their commands; the three others each fail one check of R70. -/
theorem wordsOfTheSpecDecodeAsWritten : Obligations.WordsOfTheSpecDecodeAsWritten :=
  ⟨decode_encode .nop, decode_encode .crcInit, decode_encode (.crcByte 0xFF), decode_encode (.stsByte 0x55),
    decode_encode .stsOutcome, decode_encode .errClear, decode_of_reserved_op 0x7 0xF 0xFF (by decide),
    decode_of_rsv_ne_zero 0xA 0x1 0x00 (by decide) (by decide) (by decide) (by decide),
    decode_of_data_ne_zero 0x0 0x01 (by decide) (by decide) (by decide) (by decide) (by decide) (by decide)⟩

/-! ### Frames -/

theorem issueAll_append (s : State) (ws ws' : List Word) : issueAll s (ws ++ ws') = issueAll (issueAll s ws) ws' :=
  List.foldl_append

theorem frameChecks_encodeFrame (cmd param : Word) (r : Rect) : frameChecks (encodeFrame cmd param r) = true := by
  simp [frameChecks, encodeFrame, frameHeader, be16, le16]

theorem issue_crcEmitHi (s : State) :
    issue s 0x4000 = deliver { value := zext16 (hiByte s.crc), fault := false } s :=
  issue_encode_of_respond .crcEmitHi _ _ _ (exec_crcEmitHi s)

theorem issue_crcEmitLo (s : State) :
    issue s 0x5000 = deliver { value := zext16 (loByte s.crc), fault := false } s :=
  issue_encode_of_respond .crcEmitLo _ _ _ (exec_crcEmitLo s)

/-- Settles O57: the two commands answer the bytes of the accumulator, which is the checksum of the header. -/
theorem emittedBytesCompleteTheFrame : Obligations.EmittedBytesCompleteTheFrame := by
  intro s cmd param r
  refine ⟨hiByte (checksum (frameHeader cmd param r)), loByte (checksum (frameHeader cmd param r)), rfl, ?_,
    frameChecks_encodeFrame cmd param r⟩
  have hcrc := crc_issueAll_crcInit_crcWords (frameHeader cmd param r) s
  rw [issueAll_append]
  generalize issueAll (issue s 0x1000) (crcWords (frameHeader cmd param r)) = u at hcrc
  calc (issue (issue u 0x4000) 0x5000).delivered.take 2
    _ = [{ value := zext16 (loByte u.crc), fault := false }, { value := zext16 (hiByte u.crc), fault := false }] := by
      rw [issue_crcEmitHi, issue_crcEmitLo]
      rfl
    _ = _ := by rw [hcrc]; rfl

end Sys2Proof.Machine


/-! ## One edge at the port (30_encoding.md R60, 70_reset_and_hazards.md)

What an edge asks of the engine in each state of the port, and what a quiet edge can do; then the statements about one step
or two. -/

namespace Sys2Proof.Machine

/-! ### What an edge asks of the engine -/

/-- A host that holds no word but `next` holds that one if it holds any. -/
theorem eq_of_held {held next : Option Word} {w : Word} (h : held = none ∨ held = next) (hw : held = some w) :
    next = some w := by
  obtain rfl | rfl := h
  · cases hw
  · exact hw

/-- An edge that offers no word and is no reset is quiet. -/
theorem edgeKind_of_cmdValid_false (e : Edge) (s : State) (hrst : e.rstN = true) (hvalid : e.cmdValid = false) :
    edgeKind e s = .quiet := by
  have hkeeps : breaksHandshake e s = false := by
    rw [breaksHandshake_eq_false_iff]
    simp [hvalid]
  simp [edgeKind, hrst, hvalid, hkeeps]

theorem inFlight_of_executing (s : State) (r : Response) (h : s.port = .executing r) : inFlight s = some r := by
  rw [inFlight, h]

theorem cmdReady_of_idle (e : Edge) (s : State) (hrst : e.rstN = true) (hport : s.port = .idle) :
    cmdReady e s = true := by
  simp [cmdReady, hrst, inFlight, hport]

theorem cmdReady_of_inFlight (e : Edge) (s : State) (r : Response) (hr : inFlight s = some r) :
    cmdReady e s = false := by
  simp [cmdReady, hr]

/-- An idle engine accepts the word offered, if the host has held it. -/
theorem edgeKind_of_idle (e : Edge) (s : State) (hrst : e.rstN = true) (hvalid : e.cmdValid = true)
    (hport : s.port = .idle) (hheld : ∀ w, s.held = some w → e.cmdWord = w) :
    edgeKind e s = .accept e.cmdWord := by
  have hkeeps : breaksHandshake e s = false := by
    rw [breaksHandshake_eq_false_iff]
    exact fun w hw _ => hheld w hw
  simp [edgeKind, hrst, hvalid, hport, hkeeps, cmdReady_of_idle]

/-- While a command is in flight an edge where the host holds its word is quiet. -/
theorem edgeKind_of_inFlight (e : Edge) (s : State) (r : Response) (hrst : e.rstN = true) (hr : inFlight s = some r)
    (hheld : ∀ w, s.held = some w → e.cmdValid = true → e.cmdWord = w) : edgeKind e s = .quiet := by
  have hkeeps : breaksHandshake e s = false := (breaksHandshake_eq_false_iff e s).mpr hheld
  have hport : s.port ≠ .unreset := by
    intro hunreset
    simp [inFlight, hunreset] at hr
  simp [edgeKind, hrst, hport, hkeeps, cmdReady_of_inFlight e s r hr]

/-- An edge where the host keeps its duties is not refused (30_encoding.md R60, 70_reset_and_hazards.md R206). -/
theorem edgeKind_ne_refuse_of_hostKeeps (e : Edge) (s : State) (h : HostKeeps e s) (why : Refusal) :
    edgeKind e s ≠ .refuse why := by
  intro hrefuse
  unfold edgeKind at hrefuse
  split_ifs at hrefuse with hrst hport hvalid hbreaks
  · obtain ⟨hwaits, -⟩ := h (by simpa using hrst)
    exact nomatch hvalid.symm.trans (hwaits hport)
  · obtain ⟨-, hheld⟩ := h (by simpa using hrst)
    exact nomatch hbreaks.symm.trans ((breaksHandshake_eq_false_iff e s).mpr (hheld hport))

/-- Every other edge is refused, for one of the two duties. -/
theorem edgeKind_of_not_hostKeeps (e : Edge) (s : State) (h : ¬ HostKeeps e s) :
    ∃ why, (why = .commandBeforeReset ∨ why = .brokenHandshake) ∧ edgeKind e s = .refuse why := by
  obtain ⟨hrst, hduty⟩ := Classical.not_imp.mp h
  by_cases hport : s.port = .unreset
  · have hvalid : e.cmdValid = true := by simpa [hport] using hduty
    exact ⟨_, .inl rfl, edgeKind_of_unreset_cmdValid e s hport hrst hvalid⟩
  · have hbreaks : breaksHandshake e s = true := by
      rw [← Bool.not_eq_false, breaksHandshake_eq_false_iff]
      simpa [hport] using hduty
    exact ⟨_, .inr rfl, by simp [edgeKind, hrst, hport, hbreaks]⟩

/-! ### What an edge does -/

theorem runEdge_of_accept (e : Edge) (s : State) (w : Word) (h : edgeKind e s = .accept w) :
    runEdge e s = runWord w (acceptEdge e s) := by
  rw [runEdge, h]

theorem runEdge_of_quiet (e : Edge) (s : State) (h : edgeKind e s = .quiet) :
    runEdge e s = .next (quietEdge e s) := by
  rw [runEdge, h]

/-- A step at an edge that offers a word to an idle engine runs the word, and the host holds none after it. -/
theorem step_of_idle (s : State) (e : Edge) (rest : List Edge) (h : s.edges = e :: rest) (hrst : e.rstN = true)
    (hvalid : e.cmdValid = true) (hport : s.port = .idle) (hheld : ∀ w, s.held = some w → e.cmdWord = w) :
    step s = runWord e.cmdWord { s with edges := rest, held := none } := by
  have haccept := edgeKind_of_idle e { s with edges := rest } hrst hvalid hport hheld
  have hafter : heldAfter e { s with edges := rest } = none := by
    simp [heldAfter, cmdReady_of_idle e { s with edges := rest } hrst hport]
  rw [step_of_edges s e rest h, runEdge_of_accept e _ _ haccept, acceptEdge, hafter]

theorem step_of_cmdValid_false (s : State) (e : Edge) (rest : List Edge) (h : s.edges = e :: rest)
    (hrst : e.rstN = true) (hvalid : e.cmdValid = false) : step s = .next (quietEdge e { s with edges := rest }) := by
  rw [step_of_edges s e rest h, runEdge_of_quiet e _ (edgeKind_of_cmdValid_false e _ hrst hvalid)]

/-- Where the host keeps its duties the edge has a next state. -/
theorem runEdge_of_hostKeeps (e : Edge) (s : State) (h : HostKeeps e s) : ∃ t, runEdge e s = .next t := by
  cases hkind : edgeKind e s with
  | reset => exact ⟨_, runEdge_of_rstN_false e s ((edgeKind_reset_iff e s).mp hkind)⟩
  | refuse why => exact absurd hkind (edgeKind_ne_refuse_of_hostKeeps e s h why)
  | accept w =>
    obtain ⟨t, -, hrun, -⟩ := runWord_schedule w (acceptEdge e s)
    exact ⟨t, (runEdge_of_accept e s w hkind).trans hrun⟩
  | quiet => exact ⟨_, runEdge_of_quiet e s hkind⟩

/-- What the port shows is the response in flight. -/
theorem inFlight_of_rspOffered (e : Edge) (s : State) (r : Response) (h : rspOffered e s = some r) :
    inFlight s = some r := by
  unfold rspOffered at h
  split at h <;> simp_all [inFlight]

theorem rspOffered_of_idle (e : Edge) (s : State) (h : s.port = .idle) : rspOffered e s = none := by
  cases hrst : e.rstN <;> rw [rspOffered, hrst, h]

theorem rspOffered_of_not_due (e : Edge) (s : State) (r : Response) (hport : s.port = .executing r)
    (hdue : e.rspDue = false) : rspOffered e s = none := by
  cases hrst : e.rstN <;> simp [rspOffered, hrst, hport, hdue]

theorem rspOffered_of_due (e : Edge) (s : State) (r : Response) (hr : inFlight s = some r) (hrst : e.rstN = true)
    (hdue : e.rspDue = true) : rspOffered e s = some r := by
  rw [← hr, rspOffered, hrst, inFlight]
  cases hport : s.port with
  | unreset | idle => simp [inFlight, hport] at hr
  | executing r' => exact if_pos hdue
  | offering r' => rfl

/-- Everything a quiet edge can do (30_encoding.md R60): show no response, deliver the one it shows, or leave it waiting. -/
theorem quietEdge_cases (e : Edge) (s : State) :
    (rspOffered e s = none ∧ quietEdge e s = { s with held := heldAfter e s }) ∨
    ∃ r, rspOffered e s = some r ∧ inFlight s = some r ∧
      ((e.rspReady = true ∧ quietEdge e s = deliver r { s with held := heldAfter e s }) ∨
       (e.rspReady = false ∧ quietEdge e s = { s with held := heldAfter e s, port := .offering r })) := by
  cases hr : rspOffered e s with
  | none => exact .inl ⟨rfl, by rw [quietEdge, hr]⟩
  | some r =>
    refine .inr ⟨r, rfl, inFlight_of_rspOffered e s r hr, ?_⟩
    cases hready : e.rspReady <;> simp [quietEdge, hr, offer, hready]

@[simp] theorem quietEdge_edges (e : Edge) (s : State) : (quietEdge e s).edges = s.edges := by
  obtain ⟨-, heq⟩ | ⟨r, -, -, ⟨-, heq⟩ | ⟨-, heq⟩⟩ := quietEdge_cases e s <;> simp [heq]

theorem quietEdge_sameElements (e : Edge) (s : State) : SameElements s (quietEdge e s) := by
  obtain ⟨-, heq⟩ | ⟨r, -, -, ⟨-, heq⟩ | ⟨-, heq⟩⟩ := quietEdge_cases e s <;> rw [heq] <;>
    exact ⟨rfl, rfl, rfl, rfl⟩

/-- While a command is in flight only a quiet edge leads on. -/
theorem eq_quietEdge_of_step_inFlight (s t : State) (e : Edge) (rest : List Edge) (r : Response)
    (h : s.edges = e :: rest) (hrst : e.rstN = true) (hr : inFlight s = some r) (hstep : step s = .next t) :
    t = quietEdge e { s with edges := rest } := by
  rw [step_of_edges s e rest h] at hstep
  cases hkind : edgeKind e { s with edges := rest } with
  | reset => exact nomatch hrst.symm.trans ((edgeKind_reset_iff e _).mp hkind)
  | refuse why => rw [runEdge_of_refuse e _ why hkind] at hstep; cases hstep
  | accept w =>
    obtain ⟨-, -, -, hport, -⟩ := edgeKind_accept e _ w hkind
    rw [inFlight, show s.port = .idle from hport] at hr
    cases hr
  | quiet => exact (Host.Outcome.next.inj ((runEdge_of_quiet e _ hkind).symm.trans hstep)).symm

/-! ### The statements -/

/-- Settles O49: the edge accepts the word, and running it is its command. -/
theorem stepRunsTheDecodedCommand : Obligations.StepRunsTheDecodedCommand := by
  intro s e rest i hedges hrst hvalid hport hheld hw
  rw [step_of_idle s e rest hedges hrst hvalid hport fun w hw' => Option.some.inj (eq_of_held hheld hw'),
    runWord_of_ok _ i _ hw]

/-- Settles O50: the edge accepts the word, and running it is the fault entry. -/
theorem stepTakesTheFaultOfAnIllegalWord : Obligations.StepTakesTheFaultOfAnIllegalWord := by
  intro s e rest d hedges hrst hvalid hport hheld hw
  rw [step_of_idle s e rest hedges hrst hvalid hport fun w hw' => Option.some.inj (eq_of_held hheld hw')]
  exact runWord_enters_fault _ d _ hw

/-- Settles O45: the reset edge leaves an idle port and no delivered response, and the edge after it shows none. -/
theorem resetDropsTheCommandInFlight : Obligations.ResetDropsTheCommandInFlight := by
  intro s e e' rest r hedges _ hrst hrst' hvalid'
  refine ⟨_, _, step_of_rstN_false s e _ hedges hrst, step_of_cmdValid_false _ e' rest rfl hrst' hvalid',
    rspOffered_of_rstN_false e s hrst, rspOffered_of_idle e' _ rfl, ?_⟩
  obtain ⟨-, hquiet⟩ | ⟨r', hshown, -⟩ :=
    quietEdge_cases e' { resetEdge e { s with edges := e' :: rest } with edges := rest }
  · rw [hquiet]
    exact ⟨rfl, rfl, rfl, rfl, rfl, rfl⟩
  · rw [rspOffered_of_idle e' _ rfl] at hshown
    cases hshown

/-- Settles O46: the port is idle after the reset edge, and the word the host then holds is the one it offered there. -/
theorem engineAcceptsAtTheFirstEdgeAfterReset : Obligations.EngineAcceptsAtTheFirstEdgeAfterReset := by
  intro s e e' rest hedges hrst hrst' hvalid' hsame
  refine ⟨_, step_of_rstN_false s e _ hedges hrst, cmdReady_of_idle e' _ hrst' rfl, ?_⟩
  refine step_of_idle _ e' rest rfl hrst' hvalid' rfl fun w hw => ?_
  have hheld : heldAfter e { s with edges := e' :: rest } = some w := hw
  obtain ⟨⟨hvalid, -⟩, hword⟩ := by simpa [heldAfter] using hheld
  rw [hsame hvalid, hword]

/-- Settles O51: while a command is in flight the edge is quiet, and a quiet edge delivers the response shown or keeps it. -/
theorem handshakeDeliversEachResponseOnce : Obligations.HandshakeDeliversEachResponseOnce := by
  intro s t e rest r hedges hrst hr hstep
  obtain rfl := eq_quietEdge_of_step_inFlight s t e rest r hedges hrst hr hstep
  refine ⟨cmdReady_of_inFlight e s r hr, ?_⟩
  have hframe := quietEdge_sameElements e { s with edges := rest }
  obtain ⟨hnone, hquiet⟩ | ⟨r', hshown, hr', ⟨hready, hquiet⟩ | ⟨hready, hquiet⟩⟩ :=
    quietEdge_cases e { s with edges := rest }
  · rw [hquiet] at hframe ⊢
    have hhidden : rspOffered e s ≠ some r := fun h => nomatch hnone.symm.trans h
    exact ⟨fun h => absurd h hhidden, fun _ => ⟨hr, rfl⟩, fun h => absurd h hhidden, hframe⟩
  · obtain rfl : r' = r := Option.some.inj (hr'.symm.trans hr)
    rw [hquiet] at hframe ⊢
    have htaken : ¬ (rspOffered e s = none ∨ e.rspReady = false) := by
      rintro (hnone | hstalls)
      · exact nomatch hnone.symm.trans hshown
      · exact nomatch hstalls.symm.trans hready
    exact ⟨fun _ _ => ⟨rfl, rfl, fun e' hrst' => cmdReady_deliver r' e' _ hrst'⟩, fun h => absurd h htaken,
      fun _ h => absurd (.inr h) htaken, hframe⟩
  · obtain rfl : r' = r := Option.some.inj (hr'.symm.trans hr)
    rw [hquiet] at hframe ⊢
    refine ⟨fun _ h => (nomatch h.symm.trans hready), fun _ => ⟨rfl, rfl⟩, fun _ _ e' hrst' => ?_, hframe⟩
    rw [rspOffered, hrst']

/-- Settles O52: an edge is refused exactly where the host breaks a duty, and every other edge has a next state. -/
theorem stepIsRefusedExactlyWhenTheHostBreaksItsDuty : Obligations.StepIsRefusedExactlyWhenTheHostBreaksItsDuty := by
  intro s e rest hedges
  rw [step_of_edges s e rest hedges]
  refine ⟨fun hkeeps => runEdge_of_hostKeeps e _ hkeeps, fun hbreaks => ?_⟩
  obtain ⟨why, hwhy, hrefuse⟩ := edgeKind_of_not_hostKeeps e { s with edges := rest } hbreaks
  rw [runEdge_of_refuse e _ why hrefuse]
  exact hwhy.imp (congrArg _) (congrArg _)

end Sys2Proof.Machine


/-! ## Runs of any host (10_state.md R31)

The pins to come are not the engine's: whole steps read none of them. With the response in flight taken, a step is what its
edge asks, as a whole step; a run is the induction over its steps. -/

namespace Sys2Proof.Machine

/-! ### The pins to come -/

/-- The state with these edges still to come and this word held by the host: what is not the engine's own. -/
def State.withPins (s : State) (es : List Edge) (h : Option Word) : State :=
  { s with edges := es, held := h }

@[simp] theorem withPins_edges (s : State) (es : List Edge) (h : Option Word) : (s.withPins es h).edges = es := rfl

@[simp] theorem withPins_held (s : State) (es : List Edge) (h : Option Word) : (s.withPins es h).held = h := rfl

@[simp] theorem withPins_withPins (s : State) (es es' : List Edge) (h h' : Option Word) :
    (s.withPins es h).withPins es' h' = s.withPins es' h' := rfl

@[simp] theorem settle_edges (s : State) : (settle s).edges = s.edges := by
  obtain ⟨_, _, _, _, port, _, _, _⟩ := s
  cases port <;> rfl

@[simp] theorem settle_held (s : State) : (settle s).held = s.held := by
  obtain ⟨_, _, _, _, port, _, _, _⟩ := s
  cases port <;> rfl

theorem settle_withPins (s : State) (es : List Edge) (h : Option Word) :
    settle (s.withPins es h) = (settle s).withPins es h :=
  settle_schedule s es h

theorem issue_withPins (s : State) (es : List Edge) (h : Option Word) (w : Word) :
    issue (s.withPins es h) w = (issue s w).withPins es h :=
  issue_schedule w s es h

theorem issueAll_withPins (ws : List Word) (s : State) (es : List Edge) (h : Option Word) :
    issueAll (s.withPins es h) ws = (issueAll s ws).withPins es h :=
  List.foldl_hom (fun u : State => u.withPins es h) fun u w => issue_withPins u es h w

/-- An event reads no pin; a reset empties them. -/
theorem happen_withPins (s : State) (ev : Event) (es es' : List Edge) (h h' : Option Word) :
    (happen (s.withPins es h) ev).withPins es' h' = (happen s ev).withPins es' h' := by
  cases ev with
  | reset => rfl
  | command w => rw [happen, happen, issue_withPins, withPins_withPins]

theorem foldl_happen_withPins (evs : List Event) (s : State) (es es' : List Edge) (h h' : Option Word) :
    (evs.foldl happen (s.withPins es h)).withPins es' h' = (evs.foldl happen s).withPins es' h' := by
  induction evs using List.reverseRecOn with
  | nil => rfl
  | append_singleton evs ev ih =>
    simp only [List.foldl_append, List.foldl_cons, List.foldl_nil]
    rw [← happen_withPins _ ev es' es' h' h', ih, happen_withPins]

/-! ### What an edge asks, as an event -/

theorem eventsAt_of_accept (e : Edge) (s : State) (w : Word) (h : edgeKind e s = .accept w) :
    eventsAt e s = [.command w] := by
  obtain ⟨rfl, hrst, hvalid, hport, -⟩ := edgeKind_accept e s w h
  simp [eventsAt, hrst, hvalid, cmdReady_of_idle e s hrst hport]

theorem eventsAt_of_quiet (e : Edge) (s : State) (h : edgeKind e s = .quiet) : eventsAt e s = [] := by
  obtain ⟨hrst, ⟨-, hvalid⟩ | ⟨-, -, hready⟩⟩ := edgeKind_quiet e s h
  · simp [eventsAt, hrst, hvalid]
  · rw [eventsAt, hready, hrst]
    rfl

theorem eventsAt_of_rstN_false (e : Edge) (s : State) (h : e.rstN = false) : eventsAt e s = [.reset] := by
  rw [eventsAt, if_pos h]

/-- One edge, its response taken, is what it asks for, as whole steps (10_state.md R31). -/
theorem runEdge_settle (e : Edge) (s : State) (h : HostKeeps e s) :
    ∃ t, runEdge e s = .next t ∧
      settle t = ((eventsAt e s).foldl happen (settle s)).withPins s.edges (heldAfter e s) := by
  cases hkind : edgeKind e s with
  | reset =>
    have hrst := (edgeKind_reset_iff e s).mp hkind
    refine ⟨_, runEdge_of_rstN_false e s hrst, ?_⟩
    rw [eventsAt_of_rstN_false e s hrst, settle_of_idle _ (resetEdge_port e s)]
    rfl
  | refuse why => exact absurd hkind (edgeKind_ne_refuse_of_hostKeeps e s h why)
  | accept w =>
    obtain ⟨-, -, -, hport, -⟩ := edgeKind_accept e s w hkind
    obtain ⟨t, -, hrun, -⟩ := runWord_schedule w (acceptEdge e s)
    refine ⟨t, (runEdge_of_accept e s w hkind).trans hrun, ?_⟩
    calc settle t
      _ = issue (s.withPins s.edges (heldAfter e s)) w := (issue_of_next _ _ _ hrun).symm
      _ = (issue s w).withPins s.edges (heldAfter e s) := issue_withPins s _ _ w
      _ = _ := by rw [eventsAt_of_accept e s w hkind, settle_of_idle s hport]; rfl
  | quiet =>
    refine ⟨_, runEdge_of_quiet e s hkind, ?_⟩
    rw [eventsAt_of_quiet e s hkind, settle_quietEdge, State.withPins, List.foldl_nil, ← settle_edges]

theorem step_settle (s : State) (e : Edge) (rest : List Edge) (hedges : s.edges = e :: rest) (h : HostKeeps e s) :
    ∃ t, step s = .next t ∧
      settle t = ((eventsAt e s).foldl happen (settle s)).withPins rest (heldAfter e s) := by
  obtain ⟨t, hrun, hsettle⟩ := runEdge_settle e (s.withPins rest s.held) h
  rw [settle_withPins, foldl_happen_withPins] at hsettle
  exact ⟨t, (step_of_edges s e rest hedges).trans hrun, hsettle⟩

/-! ### Runs -/

theorem step_of_edges_nil (s : State) (h : s.edges = []) : step s = .next s := by
  rw [step, h]

theorem events_of_edges_nil (n : Nat) (s : State) (h : s.edges = []) : events n s = [] := by
  cases n with
  | zero => rfl
  | succ n => simp [events, h]

theorem events_succ (n : Nat) (s t : State) (e : Edge) (rest : List Edge) (hedges : s.edges = e :: rest)
    (h : step s = .next t) : events (n + 1) s = eventsAt e s ++ events n t := by
  simp [events, hedges, h]

/-- Settles O60: by induction on the number of steps, each of which does what its edge asks. -/
theorem anyHostsRunIsItsEventsOneByOne : Obligations.AnyHostsRunIsItsEventsOneByOne := by
  intro n s hkeeps
  induction n generalizing s with
  | zero => exact ⟨s, rfl, rfl, settle_withPins s s.edges s.held⟩
  | succ n ih =>
    obtain ⟨hnow, hlater⟩ := hkeeps
    cases hedges : s.edges with
    | nil =>
      have hstep := step_of_edges_nil s hedges
      obtain ⟨t, hrun, htimes, hsettle⟩ := ih s (hlater s hstep)
      refine ⟨t, (core_run_succ n s s hstep).trans hrun, by simpa [hedges] using htimes, ?_⟩
      rwa [events_of_edges_nil _ s hedges] at hsettle ⊢
    | cons e rest =>
      obtain ⟨u, hstep, hu⟩ := step_settle s e rest hedges (hnow e rest hedges)
      obtain ⟨t, hrun, htimes, hsettle⟩ := ih u (hlater u hstep)
      have hrest : u.edges = rest := by rw [← settle_edges, hu, withPins_edges]
      refine ⟨t, (core_run_succ n s u hstep).trans hrun, by rw [htimes, hrest, List.drop_succ_cons], ?_⟩
      rw [events_succ n s u e rest hedges hstep, List.foldl_append]
      rw [hu] at hsettle
      exact hsettle.trans (foldl_happen_withPins (events n u) _ _ _ _ _)

end Sys2Proof.Machine


/-! ## Runs of a host that drives commands (30_encoding.md R60, 60_exceptions.md R192)

The edges of one command are five phases. Each leads from a state of the port to the next one; that the state, with the
response in flight taken, is what the commands accepted so far make of it, is kept at every edge. -/

namespace Sys2Proof.Machine

/-! ### What some edges lead to -/

/-- From every state with `P`, the edges `es`, where they come next, lead to a state with `Q`. -/
def Leads (P : State → Prop) (es : List Edge) (Q : State → Prop) : Prop :=
  ∀ s rest, s.edges = es ++ rest → P s →
    ∃ t : State, Host.Core.run core es.length s = .next t ∧ t.edges = rest ∧ Q t

theorem leads_nil (P : State → Prop) : Leads P [] P :=
  fun s _ hedges hP => ⟨s, core_run_zero s, hedges, hP⟩

theorem leads_edge {P Q : State → Prop} {e : Edge}
    (h : ∀ s rest, s.edges = e :: rest → P s → ∃ t, step s = .next t ∧ t.edges = rest ∧ Q t) : Leads P [e] Q := by
  intro s rest hedges hP
  obtain ⟨t, hstep, ht⟩ := h s rest hedges hP
  exact ⟨t, core_run_succ 0 s t hstep, ht⟩

theorem Leads.append {P Q R : State → Prop} {es es' : List Edge} (h : Leads P es Q) (h' : Leads Q es' R) :
    Leads P (es ++ es') R := by
  intro s rest hedges hP
  obtain ⟨t, hrun, hedges', hQ⟩ := h s (es' ++ rest) (by rw [hedges, List.append_assoc]) hP
  obtain ⟨u, hrun', hrest, hR⟩ := h' t rest hedges' hQ
  exact ⟨u, by rw [List.length_append, core_run_add _ _ s t hrun, hrun'], hrest, hR⟩

theorem Leads.mono {P Q R : State → Prop} {es : List Edge} (h : Leads Q es R) (hPQ : ∀ s, P s → Q s) : Leads P es R :=
  fun s rest hedges hP => h s rest hedges (hPQ s hP)

/-- What each of some edges keeps, all of them keep. -/
theorem leads_map {α : Type} {P : State → Prop} {f : α → Edge} (h : ∀ a, Leads P [f a] P) (l : List α) :
    Leads P (l.map f) P := by
  induction l with
  | nil => exact leads_nil P
  | cons a l ih => exact (h a).append ih

/-! ### A host that drives commands -/

/-- With the response in flight taken, the state is `base` but for the pins; the host holds no word but `next`. -/
structure Waiting (base : State) (next : Option Word) (s : State) : Prop where
  settle : settle s = base.withPins s.edges s.held
  held : s.held = none ∨ s.held = next

/-- No command is in flight. -/
structure Ready (base : State) (next : Option Word) (s : State) : Prop extends Waiting base next s where
  port : s.port = .idle

/-- A command is in flight; its response has not been offered. -/
structure Executing (base : State) (next : Option Word) (s : State) : Prop extends Waiting base next s where
  port : ∃ r, s.port = .executing r

/-- A command is in flight. -/
structure Busy (base : State) (next : Option Word) (s : State) : Prop extends Waiting base next s where
  inFlight : ∃ r, inFlight s = some r

theorem waiting_of_settle {base s : State} {next held : Option Word} {es : List Edge}
    (hsettle : settle s = base.withPins es held) (hheld : held = none ∨ held = next) : Waiting base next s := by
  have hes : s.edges = es := by rw [← settle_edges, hsettle, withPins_edges]
  have hh : s.held = held := by rw [← settle_held, hsettle, withPins_held]
  subst hes hh
  exact ⟨hsettle, hheld⟩

section
variable {base s : State} {next : Option Word} {r : Response} {rest : List Edge}

/-- A quiet edge changes the pins only (`settle_quietEdge`). -/
theorem waiting_quietEdge (h : Waiting base next s) (e : Edge) (rest : List Edge)
    (hafter : heldAfter e s = none ∨ heldAfter e s = next) :
    Waiting base next (quietEdge e { s with edges := rest }) := by
  refine waiting_of_settle (es := rest) (held := heldAfter e s) ?_ hafter
  calc settle (quietEdge e (s.withPins rest s.held))
    _ = (settle (s.withPins rest s.held)).withPins rest (heldAfter e s) := by
      rw [settle_quietEdge, settle_withPins]
      rfl
    _ = base.withPins rest (heldAfter e s) := by rw [settle_withPins, h.settle]; rfl

/-- While a command is in flight the host may offer the next word, which it then holds. -/
theorem step_hostEdge (offers ready due : Bool) (h : Waiting base next s) (hr : inFlight s = some r)
    (hedges : s.edges = hostEdge next offers ready due :: rest) :
    step s = .next (quietEdge (hostEdge next offers ready due) { s with edges := rest }) ∧
    Waiting base next (quietEdge (hostEdge next offers ready due) { s with edges := rest }) := by
  have hword (w : Word) (hw : s.held = some w) : next.getD 0x0000 = w := by
    rw [eq_of_held h.held hw, Option.getD_some]
  have hquiet := edgeKind_of_inFlight (hostEdge next offers ready due) { s with edges := rest } r rfl hr
    fun w hw _ => hword w hw
  refine ⟨(step_of_edges s _ rest hedges).trans (runEdge_of_quiet _ _ hquiet), waiting_quietEdge h _ rest ?_⟩
  rw [heldAfter, cmdReady_of_inFlight _ s r hr]
  cases offers <;> cases next <;> simp [hostEdge]

end

/-- Before the command the host offers nothing. -/
theorem leads_gap (base : State) (next : Option Word) (ready : Bool) :
    Leads (Ready base next) [hostEdge none false ready false] (Ready base next) := by
  refine leads_edge fun s rest hedges ⟨hwaiting, hport⟩ => ?_
  have hnone := rspOffered_of_idle (hostEdge none false ready false) { s with edges := rest } hport
  have hquiet := step_of_cmdValid_false s (hostEdge none false ready false) rest hedges rfl rfl
  refine ⟨_, hquiet, quietEdge_edges _ _, waiting_quietEdge hwaiting _ rest (.inl rfl), ?_⟩
  rw [quietEdge, hnone]
  exact hport

/-- At acceptance the command's effect lands, and its response is in flight. -/
theorem leads_offer (base : State) (w : Word) (next : Option Word) (ready : Bool) :
    Leads (Ready base (some w)) [{ offerEdge w with rspReady := ready }] (Executing (issue base w) next) := by
  refine leads_edge fun s rest hedges ⟨hwaiting, hport⟩ => ?_
  have hholds (w' : Word) (hw' : s.held = some w') : w = w' := Option.some.inj (eq_of_held hwaiting.held hw')
  have hstep : step s = runWord w (s.withPins rest none) :=
    step_of_idle s { offerEdge w with rspReady := ready } rest hedges rfl rfl hport hholds
  obtain ⟨t, r, hrun, hexec, hrest, -⟩ := runWord_schedule w (s.withPins rest none)
  have hsettle : settle t = (issue base w).withPins rest none :=
    calc settle t
      _ = issue (s.withPins rest none) w := (issue_of_next _ _ _ hrun).symm
      _ = issue ((settle s).withPins rest none) w := by rw [settle_of_idle s hport]
      _ = (issue base w).withPins rest none := by rw [hwaiting.settle, withPins_withPins, issue_withPins]
  exact ⟨t, hstep.trans hrun, hrest, waiting_of_settle hsettle (.inl rfl), r, hexec⟩

/-- During CMD_LATENCY no response is due. -/
theorem leads_latency (base : State) (next : Option Word) (p : HostPins) :
    Leads (Executing base next) [hostEdge next p.offers p.ready false] (Executing base next) := by
  refine leads_edge fun s rest hedges ⟨hwaiting, r, hport⟩ => ?_
  obtain ⟨hstep, hwaiting'⟩ := step_hostEdge _ _ _ hwaiting (inFlight_of_executing s r hport) hedges
  have hnone := rspOffered_of_not_due (hostEdge next p.offers p.ready false) { s with edges := rest } r hport rfl
  refine ⟨_, hstep, quietEdge_edges _ _, hwaiting', r, ?_⟩
  rw [quietEdge, hnone]
  exact hport

/-- Under back-pressure the response is valid and not taken. -/
theorem leads_stall (base : State) (next : Option Word) (offers : Bool) :
    Leads (Busy base next) [hostEdge next offers false true] (Busy base next) := by
  refine leads_edge fun s rest hedges ⟨hwaiting, r, hr⟩ => ?_
  obtain ⟨hstep, hwaiting'⟩ := step_hostEdge _ _ _ hwaiting hr hedges
  have hsome := rspOffered_of_due (hostEdge next offers false true) { s with edges := rest } r hr rfl rfl
  refine ⟨_, hstep, quietEdge_edges _ _, hwaiting', r, ?_⟩
  rw [quietEdge, hsome]
  rfl

/-- At the last edge the response is taken. -/
theorem leads_take (base : State) (next : Option Word) (offers : Bool) :
    Leads (Busy base next) [hostEdge next offers true true] (Ready base next) := by
  refine leads_edge fun s rest hedges ⟨hwaiting, r, hr⟩ => ?_
  obtain ⟨hstep, hwaiting'⟩ := step_hostEdge _ _ _ hwaiting hr hedges
  have hsome := rspOffered_of_due (hostEdge next offers true true) { s with edges := rest } r hr rfl rfl
  refine ⟨_, hstep, quietEdge_edges _ _, hwaiting', ?_⟩
  rw [quietEdge, hsome]
  rfl

/-- The edges of one command do what the command does as one step, at any pace. -/
theorem leads_transact (base : State) (p : Pace) (w : Word) (next : Option Word) :
    Leads (Ready base (some w)) (transact p w next) (Ready (issue base w) next) := by
  have hbusy (s : State) (h : Executing (issue base w) next s) : Busy (issue base w) next s :=
    let ⟨hwaiting, r, hport⟩ := h
    ⟨hwaiting, r, inFlight_of_executing s r hport⟩
  have haccepted : Leads (Ready base (some w)) _ (Executing (issue base w) next) :=
    (leads_map (leads_gap base (some w)) p.gap).append (leads_offer base w next p.readyAtOffer)
  have hdue := haccepted.append (leads_map (leads_latency (issue base w) next) p.latency)
  have hstalled := hdue.append ((leads_map (leads_stall (issue base w) next) p.stall).mono hbusy)
  exact hstalled.append (leads_take (issue base w) next p.offersAtTake)

/-- So the edges of a command sequence do what the commands do one by one. -/
theorem leads_drive (base : State) (cmds : List (Pace × Word)) :
    Leads (Ready base (firstWord cmds)) (drive cmds) (Ready (issueAll base (cmds.map Prod.snd)) none) := by
  induction cmds generalizing base with
  | nil => exact leads_nil _
  | cons c cmds ih =>
    obtain ⟨p, w⟩ := c
    exact (leads_transact base p w (firstWord cmds)).append (ih (issue base w))

/-- Settles O53: at each edge the state, its response taken, is what the commands accepted so far make of it. -/
theorem clockedRunIsTheCommandsOneByOneAtAnyPace : Obligations.ClockedRunIsTheCommandsOneByOneAtAnyPace := by
  intro cmds s rest hport hheld
  have hready : Ready s (firstWord cmds) (s.withPins (drive cmds ++ rest) s.held) :=
    ⟨⟨by rw [settle_withPins, settle_of_idle s hport]; rfl, hheld⟩, hport⟩
  obtain ⟨t, hrun, hrest, hdone, hidle⟩ := leads_drive s cmds (s.withPins (drive cmds ++ rest) s.held) rest rfl hready
  have hnone : t.held = none := by simpa using hdone.held
  have hend : t = issueAll (s.withPins rest none) (cmds.map Prod.snd) := calc t
    _ = settle t := (settle_of_idle t hidle).symm
    _ = (issueAll s (cmds.map Prod.snd)).withPins rest none := by rw [hdone.settle, hrest, hnone]
    _ = issueAll (s.withPins rest none) (cmds.map Prod.snd) := (issueAll_withPins _ s rest none).symm
  exact hrun.trans (congrArg _ hend)

end Sys2Proof.Machine


/-! ## The access matrix and the invariant (10_state.md R22, R24, R33)

What a command makes of each element and what it answers, as functions of the elements the matrix lists; and that each of
these keeps the elements legal. -/

namespace Sys2Proof.Machine

/-! ### What a command makes of each element, and what it answers -/

section
variable {i : Instr} {s t : State}

/-- `exec_units`, for the next state at hand. -/
theorem units_of_exec (h : exec i s = .next t) :
    t.crc = crcAfter i s.crc ∧ stsPair t = stsAfter i (stsPair s) := by
  obtain ⟨u, hu, hunits⟩ := exec_units i s
  obtain rfl : u = t := Host.Outcome.next.inj (hu.symm.trans h)
  exact hunits

theorem crcAfter_cases (i : Instr) (c : Word) : crcAfter i c = c ∨ i = .crcInit ∨ ∃ d, i = .crcByte d := by
  cases i with
  | crcInit => exact .inr (.inl rfl)
  | crcByte d => exact .inr (.inr ⟨d, rfl⟩)
  | _ => exact .inl rfl

theorem stsAfter_cases (i : Instr) (p : Word × Fill) :
    stsAfter i p = p ∨ i = .stsClear ∨ ((∃ d, i = .stsByte d) ∧ p.2 ≠ .two) := by
  cases i with
  | stsClear => exact .inr (.inl rfl)
  | stsByte d =>
    obtain ⟨w, fill⟩ := p
    cases fill with
    | two => exact .inl rfl
    | zero | one => exact .inr (.inr ⟨⟨d, rfl⟩, nofun⟩)
  | _ => exact .inl rfl

@[simp] theorem consumeByte_err (d : Byte) (s : State) : (consumeByte d s).err = s.err := by
  obtain ⟨-, heq⟩ | ⟨-, heq⟩ | ⟨-, heq⟩ := consumeByte_cases d s <;> rw [heq] <;> rfl

theorem respondIfFilled_err_cases (v : Word) (s : State) :
    (respondIfFilled v s).err = s.err ∨
    (s.stsFill ≠ .two ∧ respondIfFilled v s = raiseFault .shortResponse s) :=
  (respondIfFilled_cases v s).imp_left fun ⟨_, heq⟩ => by rw [heq, respond_err]

/-- What a command can do to `err`: nothing, ERR.CLEAR's zero, or the fault entry of a short response. -/
theorem exec_err_cases (h : exec i s = .next t) :
    t.err = s.err ∨ (i = .errClear ∧ t.err = 0x0000) ∨
    ((i = .stsRead ∨ i = .stsOutcome) ∧ s.stsFill ≠ .two ∧ t = raiseFault .shortResponse s) := by
  cases i with
  | stsRead =>
    cases (exec_stsRead s).symm.trans h
    exact (respondIfFilled_err_cases _ s).imp_right fun hfault => .inr ⟨.inl rfl, hfault⟩
  | stsOutcome =>
    cases (exec_stsOutcome s).symm.trans h
    exact (respondIfFilled_err_cases _ s).imp_right fun hfault => .inr ⟨.inr rfl, hfault⟩
  | stsByte d =>
    cases (exec_stsByte d s).symm.trans h
    exact .inl (consumeByte_err d s)
  | errClear =>
    cases (exec_errClear s).symm.trans h
    exact .inr (.inl ⟨rfl, by rw [respond_err, writeErr_zero]⟩)
  | _ =>
    cases h
    exact .inl rfl

/-- A command leaves the pins and the delivered responses alone. -/
theorem exec_frame (h : exec i s = .next t) : t.held = s.held ∧ t.edges = s.edges ∧ t.delivered = s.delivered := by
  obtain ⟨u, -, hu, -, hedges, hheld, -⟩ := runWord_schedule (encode i) s
  obtain ⟨hresponse, -⟩ := everyWordHasOneResponse
  obtain ⟨u', -, hu', -, hdelivered, -⟩ := hresponse (encode i) s
  rw [runWord_encode, h] at hu hu'
  cases hu
  cases hu'
  exact ⟨hheld, hedges, hdelivered⟩

/-- The response of a command that needs both response bytes (41_status.md R133, R134). -/
def filledAnswer (v : Word) : Fill → Response
  | .two => { value := v, fault := false }
  | _ => { value := 0x0000, fault := true }

/-- The response of a command, from the elements (10_state.md R33). -/
def answerOf (i : Instr) (crc : Word) (sts : Word × Fill) (err : Word) : Response :=
  match i with
  | .crcRead => { value := crc, fault := false }
  | .crcEmitHi => { value := zext16 (hiByte crc), fault := false }
  | .crcEmitLo => { value := zext16 (loByte crc), fault := false }
  | .stsRead => filledAnswer sts.1 sts.2
  | .stsOutcome => filledAnswer (outcomeCode (classify sts.1)) sts.2
  | .stsFill => { value := fillWord sts.2, fault := false }
  | .errRead => { value := err &&& errMask, fault := false }
  | .nop | .crcInit | .crcByte _ | .stsClear | .stsByte _ | .errClear => { value := 0x0000, fault := false }

theorem inFlight_respondIfFilled (v : Word) (s : State) :
    inFlight (respondIfFilled v s) = some (filledAnswer v s.stsFill) := by
  cases hfill : s.stsFill with
  | two => rw [respondIfFilled_of_two v s hfill]; rfl
  | zero | one => rw [respondIfFilled_of_ne_two v s (by simp [hfill])]; rfl

theorem answer_of_exec (h : exec i s = .next t) : inFlight t = some (answerOf i s.crc (stsPair s) s.err) := by
  cases i with
  | stsRead =>
    cases (exec_stsRead s).symm.trans h
    exact inFlight_respondIfFilled _ s
  | stsOutcome =>
    cases (exec_stsOutcome s).symm.trans h
    exact inFlight_respondIfFilled _ s
  | _ =>
    cases h
    rfl

end

/-- Settles O38: what a command makes of each element is another value only for the commands listed. -/
theorem commandsWriteOnlyWhatTheMatrixLists : Obligations.CommandsWriteOnlyWhatTheMatrixLists := by
  intro i s t h
  obtain ⟨hcrc, hsts⟩ := units_of_exec h
  refine ⟨?_, ?_, ?_, exec_frame h⟩
  · rw [hcrc]
    exact crcAfter_cases i s.crc
  · refine (stsAfter_cases i (stsPair s)).imp_left fun hsame => ?_
    rw [hsame] at hsts
    exact Prod.mk.inj hsts
  · obtain hsame | ⟨hi, -⟩ | ⟨hi, hfill, rfl⟩ := exec_err_cases h
    · exact .inl hsame
    · exact .inr (.inl hi)
    · exact .inr (.inr ⟨hi, hfill, raiseFault_entered .shortResponse s⟩)

/-- Settles O39: the response and what each unit becomes are functions of the elements, and use only those listed. -/
theorem commandsReadOnlyWhatTheMatrixLists : Obligations.CommandsReadOnlyWhatTheMatrixLists := by
  intro i s s' t t' h h'
  obtain ⟨hcrc, hsts⟩ := units_of_exec h
  obtain ⟨hcrc', hsts'⟩ := units_of_exec h'
  rw [answer_of_exec h, answer_of_exec h', hcrc, hcrc']
  refine ⟨?_, ?_, ?_, ?_, fun hi hsame => ?_, fun hi hword hfill => ?_, ?_, ?_⟩
  · rintro (rfl | rfl | rfl | rfl) <;> rfl
  · rintro rfl
    rfl
  · rintro rfl
    exact Prod.mk.inj (hsts.trans hsts'.symm)
  · rintro rfl
    cases (exec_errClear s).symm.trans h
    cases (exec_errClear s').symm.trans h'
    rfl
  · rw [hsame]
    refine ⟨?_, rfl⟩
    cases i with
    | crcInit | crcByte | crcRead | crcEmitHi | crcEmitLo => rfl
    | _ => cases hi
  · have hpair : stsPair s = stsPair s' := Prod.ext hword hfill
    rw [hpair] at hsts ⊢
    refine ⟨?_, Prod.mk.inj (hsts.trans hsts'.symm)⟩
    cases i with
    | stsClear | stsByte | stsRead | stsOutcome | stsFill => rfl
    | _ => cases hi
  · rintro rfl hfill
    rw [answerOf, answerOf, stsPair, stsPair, hfill]
  · rintro rfl herr
    rw [answerOf, answerOf, herr]

/-! ### The invariant -/

/-- The two elements of the status parser agree (10_state.md R22). -/
def StsPairLegal (p : Word × Fill) : Prop :=
  (p.2 = .zero → p.1 = 0x0000) ∧ (p.2 = .one → hiByte p.1 = 0x00)

theorem stsLegal_iff (s : State) : StsLegal s ↔ StsPairLegal (stsPair s) := Iff.rfl

theorem stsAfter_legal (i : Instr) (p : Word × Fill) (h : StsPairLegal p) : StsPairLegal (stsAfter i p) := by
  cases i with
  | stsClear => exact ⟨fun _ => rfl, nofun⟩
  | stsByte d =>
    obtain ⟨w, fill⟩ := p
    cases fill with
    | zero => exact ⟨nofun, fun _ => hiByte_zext16 d⟩
    | one => exact ⟨nofun, nofun⟩
    | two => exact h
  | _ => exact h

theorem errLegal_of_err_eq {s t : State} (h : ErrLegal s) (heq : t.err = s.err) : ErrLegal t := by
  rwa [ErrLegal, heq]

theorem errLegal_of_err_zero {s : State} (h : s.err = 0x0000) : ErrLegal s := by
  rw [ErrLegal, h]
  decide

/-- Recording a cause keeps `err` legal: CAUSE is then a code up to 3 and not 0. -/
theorem errLegal_raiseFault (c : Cause) (s : State) (h : ErrLegal s) : ErrLegal (raiseFault c s) := by
  obtain ⟨-, hcause, -⟩ := h
  have hentered := raiseFault_entered c s
  obtain ⟨⟨-, -, hreserved⟩, -⟩ := id hentered
  exact ⟨hreserved, raiseFault_errCause_le_three c s hcause, fun _ => errCause_ne_zero_of_faultEntered c s _ hentered⟩

theorem legal_of_sameElements {s t : State} (h : Legal s) (hsame : SameElements s t) (hresponses : ResponsesLegal t) :
    Legal t := by
  obtain ⟨-, hword, hfill, herr⟩ := hsame
  have hpair : stsPair t = stsPair s := Prod.ext hword.symm hfill.symm
  exact ⟨errLegal_of_err_eq h.err herr.symm, by rw [stsLegal_iff, hpair]; exact h.sts, hresponses⟩

theorem legal_withPins {s : State} (h : Legal s) (es : List Edge) (held : Option Word) : Legal (s.withPins es held) :=
  ⟨h.err, h.sts, h.responses⟩

/-- The response of a word is legal, and those delivered before it are not touched. -/
theorem runWord_responsesLegal (w : Word) {s t : State} (h : ResponsesLegal s) (hrun : runWord w s = .next t) :
    ResponsesLegal t := by
  obtain ⟨-, hdelivered⟩ := h
  obtain ⟨hresponse, -⟩ := everyWordHasOneResponse
  obtain ⟨u, r, hu, hport, hsame, hfault⟩ := hresponse w s
  obtain rfl : u = t := Host.Outcome.next.inj (hu.symm.trans hrun)
  refine ⟨fun r' hr' hf => ?_, by rwa [hsame]⟩
  obtain rfl : r = r' := Option.some.inj ((inFlight_of_executing u r hport).symm.trans hr')
  obtain ⟨hvalue, -⟩ := hfault hf
  exact hvalue

/-- An accepted word keeps the state legal, whether it is a command or not. -/
theorem runWord_legal (w : Word) {s t : State} (h : Legal s) (hrun : runWord w s = .next t) : Legal t := by
  have hresponses := runWord_responsesLegal w h.responses hrun
  cases hw : decode w with
  | error d =>
    cases (runWord_of_error w d s hw).symm.trans hrun
    exact ⟨errLegal_raiseFault _ s h.err, h.sts, hresponses⟩
  | ok i =>
    rw [runWord_of_ok w i s hw] at hrun
    obtain ⟨-, hsts⟩ := units_of_exec hrun
    refine ⟨?_, by rw [stsLegal_iff, hsts]; exact stsAfter_legal i _ h.sts, hresponses⟩
    obtain hsame | ⟨-, hzero⟩ | ⟨-, -, rfl⟩ := exec_err_cases hrun
    · exact errLegal_of_err_eq h.err hsame
    · exact errLegal_of_err_zero hzero
    · exact errLegal_raiseFault _ s h.err

/-- A quiet edge only moves a response on. -/
theorem quietEdge_legal (e : Edge) {s : State} (h : Legal s) : Legal (quietEdge e s) := by
  refine legal_of_sameElements h (quietEdge_sameElements e s) ?_
  obtain ⟨hflight, hdelivered⟩ := h.responses
  obtain ⟨-, heq⟩ | ⟨r, -, hr, ⟨-, heq⟩ | ⟨-, heq⟩⟩ := quietEdge_cases e s <;> rw [heq]
  · exact h.responses
  · exact ⟨nofun, List.forall_mem_cons.mpr ⟨hflight r hr, hdelivered⟩⟩
  · refine ⟨fun r' hr' => ?_, hdelivered⟩
    obtain rfl : r = r' := Option.some.inj hr'
    exact hflight r hr

/-- Settles O55: `err` and the parser are zero, and there is no response. -/
theorem resetStateIsLegal : Obligations.ResetStateIsLegal :=
  ⟨errLegal_of_err_zero rfl, ⟨fun _ => rfl, nofun⟩, nofun, nofun⟩

/-- Settles O54: reset gives a legal state, and an accepted word and a quiet edge each keep one. -/
theorem everyStepKeepsTheStateLegal : Obligations.EveryStepKeepsTheStateLegal := by
  intro s t h hstep
  obtain ⟨-, rfl⟩ | ⟨e, rest, -, ⟨-, rfl⟩ | ⟨w, -, hrun⟩ | ⟨-, rfl⟩⟩ := step_cases s t hstep
  · exact h
  · exact legal_withPins resetStateIsLegal rest _
  · exact runWord_legal w (legal_withPins h rest _) hrun
  · exact quietEdge_legal e (legal_withPins h rest s.held)

end Sys2Proof.Machine


/-! ## Assembler text (30_encoding.md R72)

What a line of a mnemonic and operands assembles to, and what each form of operand is read as. -/

namespace Sys2Proof.Machine

/-! ### Lines of a mnemonic and operands -/

/-- What a written line of an opcode assembles to: its operands are read, then fitted to the opcode. -/
theorem assembleLine_mnemonic (o : Opcode) (ops : List (List Char)) (hops : ∀ l ∈ ops, isOperandText l = true)
    (line : List Char)
    (hline : line = lineText o.mnemonic.toList ops ∨ ∃ c, line = lineText o.mnemonic.toList ops ++ ';' :: c) :
    assembleLine line = (parseBytes ops).bind fun bs => (commandOf o bs).map fun i => [encode i] := by
  obtain ⟨htext, hraw, ho⟩ := opcodeOf_mnemonic o
  rw [assembleLine_of_stripComment _ ops htext hops line hline, assembleParts, if_neg hraw,
    operandTexts_joinOperands ops hops, ho]
  cases parseBytes ops <;> rfl

theorem parseBytes_singleton (l : List Char) : parseBytes [l] = (parseByte l).map fun b => [b] := by
  cases h : parseByte l <;> simp [parseBytes, h]

theorem commandOf_of_takesByte (o : Opcode) (b : Byte) (h : o.takesByte = true) : commandOf o [b] = some (o.command b) := by
  simp [commandOf, h]

theorem commandOf_of_not_takesByte (o : Opcode) (h : o.takesByte = false) : commandOf o [] = some (o.command 0) := by
  simp [commandOf, h]

/-- An opcode takes one operand or none (30_encoding.md R72). -/
theorem commandOf_of_length_ne (o : Opcode) (bs : List Byte) (h : bs.length ≠ if o.takesByte then 1 else 0) :
    commandOf o bs = none := by
  unfold commandOf
  split <;> simp_all

/-- A line with one operand, for an opcode that takes one. -/
theorem assembleLine_operand (o : Opcode) (l : List Char) (ho : o.takesByte = true) (hl : isOperandText l = true) :
    assembleLine (lineText o.mnemonic.toList [l]) = (parseByte l).map fun b => [encode (o.command b)] := by
  rw [assembleLine_mnemonic o [l] (by simpa using hl) _ (.inl rfl), parseBytes_singleton]
  cases parseByte l with
  | none => rfl
  | some b => simp [commandOf_of_takesByte o b ho]

/-- The operands printed for a command are read back as its data. -/
theorem operandsOf_assembled (i : Instr) :
    (∀ l ∈ operandsOf i, isOperandText l = true) ∧
    (parseBytes (operandsOf i)).bind (fun bs => (commandOf i.opcode bs).map fun i => [encode i]) = some [encode i] := by
  obtain ⟨htext, hparse⟩ := parseByte_byteText i.data
  cases ho : i.opcode.takesByte with
  | true =>
    have hops : operandsOf i = [byteText i.data] := if_pos ho
    rw [hops, parseBytes_singleton, hparse]
    exact ⟨by simpa using htext, by simp [commandOf_of_takesByte _ _ ho]⟩
  | false =>
    have hops : operandsOf i = [] := if_neg (by simp [ho])
    have hcommand : commandOf i.opcode [] = some i := by
      rw [commandOf_of_not_takesByte _ ho, ← i.data_of_takesByte_false ho, Instr.command_opcode_data]
    rw [hops]
    exact ⟨nofun, by simp [parseBytes, hcommand]⟩

/-! ### Numerals -/

/-- A hex digit is no blank, no comma and no start of a comment. -/
theorem plain_of_hexDigit (c : Char) (h : (hexDigit c).isSome = true) :
    (!isBlank c && c != ',' && c != ';') = true := by
  have hne (d : Char) (hd : hexDigit d = none) : c ≠ d := by
    rintro rfl
    simp [hd] at h
  simp [isBlank, hne ' ' (by decide), hne '\t' (by decide), hne ',' (by decide), hne ';' (by decide)]

theorem all_plain_of_hexDigits (l : List Char) (h : (l.all fun c => (hexDigit c).isSome) = true) :
    (l.all fun c => !isBlank c && c != ',' && c != ';') = true := by
  rw [List.all_eq_true] at h ⊢
  exact fun c hc => plain_of_hexDigit c (h c hc)

theorem isOperandText_of_hexDigits (l : List Char) (hne : l ≠ [])
    (h : (l.all fun c => (hexDigit c).isSome) = true) : isOperandText l = true := by
  rw [isOperandText, all_plain_of_hexDigits l h]
  simpa using hne

theorem isOperandText_of_hex (l : List Char) (h : (l.all fun c => (hexDigit c).isSome) = true) :
    isOperandText ('0' :: 'x' :: l) = true := by
  rw [isOperandText, List.all_cons, List.all_cons, all_plain_of_hexDigits l h]
  rfl

theorem hexDigit_isSome_of_isDigit (c : Char) (h : c.isDigit = true) : (hexDigit c).isSome = true := by
  rw [hexDigit]
  split_ifs
  · rfl
  · rfl
  · rw [decimalDigit_of_isDigit c h]
    rfl

/-- The parser reads a decimal numeral digit by digit from the left, as its value is defined. -/
theorem digitsValue_decimal (ds : List Char) (acc : Nat) (h : ds.all Char.isDigit = true) :
    digitsValue decimalDigit 10 acc ds = some (ds.foldl (fun v c => 10 * v + (c.toNat - '0'.toNat)) acc) := by
  induction ds generalizing acc with
  | nil => rfl
  | cons c ds ih =>
    rw [List.all_cons, Bool.and_eq_true] at h
    obtain ⟨hc, hds⟩ := h
    simp only [digitsValue, decimalDigit_of_isDigit c hc]
    rw [ih _ hds, List.foldl_cons, Nat.mul_comm acc]

theorem parseDecimal_of_digits (ds : List Char) (hne : ds ≠ []) (h : ds.all Char.isDigit = true) :
    parseDecimal ds = some (decimalValue ds) := by
  cases ds with
  | nil => exact absurd rfl hne
  | cons c ds => exact digitsValue_decimal (c :: ds) 0 h

theorem parseHex_of_digits (n : Nat) (ds : List Char) (h : ds.all Char.isDigit = true) : parseHex n ds = none := by
  unfold parseHex
  split
  · simp at h
  · rfl

/-- A decimal operand is a byte up to 255 (30_encoding.md R72). -/
theorem parseByte_of_digits (ds : List Char) (hne : ds ≠ []) (h : ds.all Char.isDigit = true) :
    parseByte ds = if decimalValue ds ≤ 255 then some (BitVec.ofNat 8 (decimalValue ds)) else none := by
  rw [parseByte, parseHex_of_digits 2 ds h, parseDecimal_of_digits ds hne h]

/-- A hex operand is a byte with two digits only, and no decimal one. -/
theorem parseByte_of_long_hex (hs : List Char) (h : 2 < hs.length) : parseByte ('0' :: 'x' :: hs) = none := by
  have hhex : parseHex 2 ('0' :: 'x' :: hs) = none := if_neg (Nat.ne_of_gt h)
  have hdecimal : parseDecimal ('0' :: 'x' :: hs) = none := rfl
  rw [parseByte, hhex, hdecimal]

/-! ### The raw directive -/

theorem hexDigit_hexChar (v : Nat) (h : v < 16) : hexDigit (hexChar v) = some v := by
  revert v
  decide +kernel

/-- Two printed hex digits add a byte to the number read. -/
theorem digitsValue_byte (b : Byte) (acc : Nat) (rest : List Char) :
    digitsValue hexDigit 16 acc (hexChar (b.toNat / 16) :: hexChar (b.toNat % 16) :: rest) =
      digitsValue hexDigit 16 (256 * acc + b.toNat) rest := by
  have hvalue : (acc * 16 + b.toNat / 16) * 16 + b.toNat % 16 = 256 * acc + b.toNat := by omega
  simp only [digitsValue, hexDigit_hexChar (b.toNat / 16) (by omega), hexDigit_hexChar (b.toNat % 16) (by omega), hvalue]

theorem toNat_eq_bytes (w : Word) : w.toNat = 256 * (hiByte w).toNat + (loByte w).toNat := by
  simp only [hiByte, loByte, BitVec.extractLsb'_toNat, Nat.shiftRight_eq_div_pow]
  omega

theorem rawWordOf_wordText (w : Word) : rawWordOf (wordText w) = some w := by
  have hparse : parseHex 4 (wordText w) = some w.toNat :=
    calc parseHex 4 (wordText w)
      _ = digitsValue hexDigit 16 0 ((wordText w).drop 2) := rfl
      _ = some (256 * (256 * 0 + (hiByte w).toNat) + (loByte w).toNat) :=
        (digitsValue_byte (hiByte w) 0 _).trans (digitsValue_byte (loByte w) _ [])
      _ = some w.toNat := by rw [toNat_eq_bytes w, Nat.mul_zero, Nat.zero_add]
  rw [rawWordOf, hparse]
  simp

theorem isOperandText_wordText (w : Word) : isOperandText (wordText w) = true := by
  refine isOperandText_of_hex _ ?_
  have hdigit (v : Nat) (h : v < 16) : (hexDigit (hexChar v)).isSome = true := by rw [hexDigit_hexChar v h]; rfl
  simp only [List.all_cons, List.all_nil, Bool.and_true, Bool.and_eq_true]
  exact ⟨hdigit _ (by omega), hdigit _ (by omega), hdigit _ (by omega), hdigit _ (by omega)⟩

/-- Every line but the raw directive's assembles to words of commands. -/
theorem assembleParts_commands (m rest : List Char) (ws : List Word) (hm : m ≠ ".word".toList)
    (h : assembleParts m rest = some ws) : ∃ is : List Instr, ws = is.map encode := by
  rw [assembleParts, if_neg hm] at h
  split at h
  · cases h
  · split at h
    · obtain ⟨i, -, rfl⟩ := Option.map_eq_some_iff.mp h
      exact ⟨[i], rfl⟩
    · obtain ⟨p, -, rfl⟩ := Option.map_eq_some_iff.mp h
      exact ⟨expand p, rfl⟩

/-- Settles O59: a line is read as its mnemonic and operands; each clause is one way of reading the operands. -/
theorem assembledTextIsTheCommand : Obligations.AssembledTextIsTheCommand := by
  refine ⟨fun i => ?_, fun i comment => ?_, fun o ops hops hcount => ?_, fun o ds ho hne hds => ?_,
    fun o hs hhex hlen => ?_, fun w => ?_, fun m rest ws hm hws w hw => ?_⟩
  · obtain ⟨hops, hassembled⟩ := operandsOf_assembled i
    exact (assembleLine_mnemonic i.opcode _ hops _ (.inl rfl)).trans hassembled
  · obtain ⟨hops, hassembled⟩ := operandsOf_assembled i
    exact (assembleLine_mnemonic i.opcode _ hops _ (.inr ⟨comment, rfl⟩)).trans hassembled
  · rw [assembleLine_mnemonic o ops hops _ (.inl rfl)]
    cases hbs : parseBytes ops with
    | none => rfl
    | some bs =>
      rw [← parseBytes_length ops bs hbs] at hcount
      simp [commandOf_of_length_ne o bs hcount]
  · have htext := isOperandText_of_hexDigits ds hne (List.all_eq_true.mpr fun c hc =>
      hexDigit_isSome_of_isDigit c (List.all_eq_true.mp hds c hc))
    rw [assembleLine_operand o ds ho htext, parseByte_of_digits ds hne hds, apply_ite (Option.map _)]
    rfl
  · rw [assembleLine_mnemonic o _ (by simpa using isOperandText_of_hex hs hhex) _ (.inl rfl), parseBytes_singleton,
      parseByte_of_long_hex hs hlen]
    rfl
  · rw [assembleLine_of_stripComment _ [wordText w] (by decide) (by simpa using isOperandText_wordText w) _ (.inl rfl),
      assembleParts, if_pos rfl, joinOperands, rawWordOf_wordText]
    rfl
  · obtain ⟨is, rfl⟩ := assembleParts_commands m rest ws hm hws
    obtain ⟨i, -, rfl⟩ := List.mem_map.mp hw
    exact ⟨i, decode_encode i⟩

end Sys2Proof.Machine
